-- ==== Sys2Proof/Word.lean ====
section
/-! DEFINITION. The engine's word and byte types (spec/00_scope.md R9, R10). -/

namespace Sys2Proof

/-- A 32-bit word: every host-visible register, `X[i]`, `rk[i]` (R9). -/
abbrev Word := BitVec 32

/-- An 8-bit byte of BUF or of a block (R9, R80). -/
abbrev Byte := BitVec 8

end Sys2Proof
end

