-- ==== Sys2Proof/Config.lean ====
section
/-! DEFINITION. The implementation parameters of R8, and the free values the spec leaves open
(spec/93_implementation_defined.md S1 to S5). -/

namespace Sys2Proof

/-- What CTR_XFORM does past `2^128 - 1` (R8, R303). -/
inductive CtrOvfPolicy where
  | fault
  | wrap
deriving DecidableEq, Repr

/-- The parameters of R8. They are arguments of the model: a state carries them (`State.cfg`) and no
step changes them. `LAT_*` is not here: the number of engine steps is the agenda's (Log 2). -/
structure Config where
  /-- Host address of register offset 0x000 (D2). -/
  regBase : Nat
  /-- Size in bytes of BUF (D15). -/
  memBytes : Nat
  /-- What happens past the last counter value (D23). -/
  ctrOvfPolicy : CtrOvfPolicy
  /-- Number of block datapaths (D25); no result depends on it. -/
  nLanes : Nat
deriving DecidableEq, Repr

/-- The parameters at `State.reset`: FAULT is the spec's own value (R303); the other three are open in
the spec. DESIGN CHOICE (Log 1), unsafe for claims about `State.reset` alone. -/
def Config.taken : Config :=
  { regBase := 0, memBytes := 65536, ctrOvfPolicy := .fault, nLanes := 1 }

/-- `draw32` of R141 and R146: a free word, one per draw (Log 3). -/
opaque Config.draw32 : Nat → Word

/-- A free byte, one per draw: R90's read of a destination byte, R152's aborted destination bytes
(Log 3). -/
opaque Config.drawByte : Nat → Byte

/-- The content of BUF byte `a` after power-on number `launch`, which R381 leaves unspecified (Log 4). -/
opaque Config.powerOnByte : (launch a : Nat) → Byte

end Sys2Proof
end

