-- ==== Sys2Proof/Syntax.lean ====
section
/-! DEFINITION. The engine's instructions: its 11 commands, one constructor per row of
spec/opcode_table.json (R112). -/

namespace Sys2Proof

/-- A command. No command word carries an operand (R114), so no constructor has a field. -/
inductive Instr where
  /-- KEY_EXPAND (R222). -/
  | keyExpand
  /-- ENC_BLOCK (R243). -/
  | encBlock
  /-- DEC_BLOCK (R244). -/
  | decBlock
  /-- ECB_ENC (R271). -/
  | ecbEnc
  /-- ECB_DEC (R274). -/
  | ecbDec
  /-- CTR_XFORM (R301). -/
  | ctrXform
  /-- PRIM_S (R190). -/
  | primS
  /-- PRIM_L (R191). -/
  | primL
  /-- PRIM_LP (R192). -/
  | primLp
  /-- PRIM_T (R193). -/
  | primT
  /-- PRIM_TP (R194). -/
  | primTp
deriving DecidableEq, Repr

end Sys2Proof
end

