-- ==== Sys2Proof/WellFormed.lean ====
section
/-! DEFINITION. What the spec calls well formed: a command word (R110, R111, R113) and the parameters
(R8). An `Instr` has no operand field, so every `Instr` is well formed (R114). -/

namespace Sys2Proof

/-- The reserved values of OP (R112, R113). -/
def reservedOps : List (BitVec 4) := [0x0, 0x7, 0xD, 0xE, 0xF]

/-- A legal command word: RSV, bits 31:4, is 0 and OP, bits 3:0, is not reserved (R111, R113). -/
def wellFormedWord (w : Word) : Bool :=
  w.extractLsb' 4 28 == 0 && !reservedOps.contains (w.extractLsb' 0 4)

/-- Every command is well formed: it carries no operand, immediate, register number or mode field
(R114). -/
def Instr.wellFormed : Instr → Bool
  | .keyExpand => true
  | .encBlock => true
  | .decBlock => true
  | .ecbEnc => true
  | .ecbDec => true
  | .ctrXform => true
  | .primS => true
  | .primL => true
  | .primLp => true
  | .primT => true
  | .primTp => true

/-- The legal parameters of R8: a 256-byte-aligned REG_BASE, a power of two MEM_BYTES from 16 to 2^31,
at least one lane. -/
def Config.wellFormed (c : Config) : Bool :=
  c.regBase % 256 == 0 && c.memBytes == 2 ^ c.memBytes.log2 && 16 ≤ c.memBytes
    && c.memBytes ≤ 2 ^ 31 && 1 ≤ c.nLanes

end Sys2Proof
end

