-- ==== Sys2Proof/Decode.lean ====
section
/-! DEFINITION. The decoding function of R119, total over all command words, and the encoder written
from the opcode map of R112. -/

namespace Sys2Proof

/-- Why a command word is illegal (R113). Both are rejected with ERR_OPCODE (R147). -/
inductive Illegal where
  /-- RSV is not 0, whatever OP is (R111). -/
  | reservedBits
  /-- RSV is 0 and OP is reserved (R112). -/
  | reservedOpcode (op : BitVec 4)
deriving DecidableEq, Repr

/-- The opcode map of R112, read by OP. -/
def decodeOp (op : BitVec 4) : Except Illegal Instr :=
  if op = 0x1 then .ok .keyExpand
  else if op = 0x2 then .ok .encBlock
  else if op = 0x3 then .ok .decBlock
  else if op = 0x4 then .ok .ecbEnc
  else if op = 0x5 then .ok .ecbDec
  else if op = 0x6 then .ok .ctrXform
  else if op = 0x8 then .ok .primS
  else if op = 0x9 then .ok .primL
  else if op = 0xA then .ok .primLp
  else if op = 0xB then .ok .primT
  else if op = 0xC then .ok .primTp
  else .error (.reservedOpcode op)

/-- `decode(w)` of R119: RSV first, then OP. -/
def decode (w : Word) : Except Illegal Instr :=
  if w.extractLsb' 4 28 = 0 then decodeOp (w.extractLsb' 0 4) else .error .reservedBits

/-- The OP value of each command (R112). -/
def opcode : Instr → BitVec 4
  | .keyExpand => 0x1
  | .encBlock => 0x2
  | .decBlock => 0x3
  | .ecbEnc => 0x4
  | .ecbDec => 0x5
  | .ctrXform => 0x6
  | .primS => 0x8
  | .primL => 0x9
  | .primLp => 0xA
  | .primT => 0xB
  | .primTp => 0xC

/-- The command word of each command: `zext_32(OP)` (R112). -/
def encode (i : Instr) : Word := (opcode i).setWidth 32

/-- The command the decoder reads from a word of `nbits` bits whose value is `w`. A command is one
32-bit word (R116), so a longer one is no command. -/
def decodeTableWord (nbits w : Nat) : Option Instr :=
  if nbits ≤ 32 then (decode (BitVec.ofNat 32 (w % 2 ^ nbits))).toOption else none

end Sys2Proof
end

