-- ==== Sys2Proof/Machine/State.lean ====
section
/-! DEFINITION. The state: every register, field, internal element and memory of
spec/10_state.md (R31 to R57, summarised in R59), the hardware reset input (R380), the parameters (R8),
and the model's own interface fields (Log 2, 3, 4, 5). -/

namespace Sys2Proof.Machine

open Sys2Proof

/-- A group of four words `Q[0..3]` (R47): KEY, DIN, DOUT, CTR and the window Xw (R50). `w0` is the most
significant word. -/
structure Quad where
  w0 : Word
  w1 : Word
  w2 : Word
  w3 : Word
deriving DecidableEq, Repr

/-- The round-subkey file RK[0..31] (R46). -/
abbrev RkFile := Vector Word 32

/-- BUF (R57): the bytes written since the last power-on, as (address, byte) pairs by rising address. An
unlisted address was never written and has no value of its own here; reading it gives the free value
`Config.powerOnByte` (R381, Log 4). -/
abbrev Memory := List Host.Cell

/-- The canonical form of a memory: addresses strictly rising. -/
def Memory.wf (m : Memory) : Bool := decide ((m.map Prod.fst).Pairwise (· < ·))

/-- The host's operations (R140, R115). `size` is an access size in bits and `addr` a host address. -/
inductive HostOp where
  /-- `RegRead`. -/
  | regRead (size addr : Nat)
  /-- `RegWrite`. -/
  | regWrite (size addr : Nat) (v : Word)
  /-- `BufRead`. -/
  | bufRead (a : Nat)
  /-- `BufWrite`. -/
  | bufWrite (a : Nat) (b : Byte)
deriving DecidableEq, Repr

/-- What can happen next. A list of events is an interleaving of the two agents (R30, R149; Log 2). -/
inductive Event where
  /-- The host performs one operation. -/
  | host (op : HostOp)
  /-- The engine takes an internal step that is not the command's last (R149). -/
  | engineStep
  /-- The engine takes the command's last step, which performs `Exec(OPC)` (R149). -/
  | engineLast
  /-- The platform asserts the hardware reset input, at power-on or as a system reset (R380). -/
  | resetAssert (powerOn : Bool)
  /-- The platform releases the hardware reset input (R382). -/
  | resetRelease
deriving DecidableEq, Repr

/-- What the bus returned to the host: the datum of a read (R141, R89, R90). -/
inductive Response where
  | reg (off : Nat) (v : Word)
  | buf (a : Nat) (b : Byte)
deriving DecidableEq, Repr

/-- The reasons a step stops with a fault. -/
inductive Fault where
  /-- Raised by a register access that is not 32 bits wide, not aligned, or outside the window (R143: "The
  model treats a bus error as a fault of the host program"). Safe: the engine would go on unchanged. -/
  | hostBusError (off : Int)
  /-- Raised by a host BUF access at an address that BUF does not have (R89: "outside this engine"). Safe. -/
  | bufNoSuchAddress (a : Nat)
deriving DecidableEq, Repr

/-- The reasons a step is refused. -/
inductive Refusal where
  /-- An instruction that has no meaning yet; no arm of `exec` uses it. Safe. -/
  | notModelled (mnemonic : String)
  /-- Raised by a host write into the source or destination region of a running buffer command (R90, R349:
  "The model refuses"). Safe. -/
  | hostWriteIntoBusyRegion (a : Nat)
  /-- Raised by a host operation while the hardware reset input is asserted (R382, S6). Safe. -/
  | hostTransactionDuringReset
  /-- Raised by an engine step whose latched OPC is no command; OPC is meaningful only while BUSY = 1 (R54),
  and no accepted command leaves such a value. Safe (Log 8). -/
  | noCommandLatched (op : BitVec 4)
deriving DecidableEq, Repr

/-- The whole machine. -/
structure State where
  /-- The parameters of R8; no step changes them. -/
  cfg : Config
  /-- STATUS.BUSY, bit 0 (R33). -/
  busy : Bool
  /-- STATUS.DONE, bit 1 (R33). -/
  done : Bool
  /-- STATUS.ERR, bit 2 (R33). -/
  err : Bool
  /-- STATUS.RK_VALID, bit 3 (R33). -/
  rkValid : Bool
  /-- STATUS.OVR, bit 4 (R33). -/
  ovr : Bool
  /-- STATUS.ERRCODE, bits 11:8 (R33, R340). -/
  errcode : BitVec 4
  /-- CTRL.IE, bit 0 (R35). -/
  ie : Bool
  /-- KEY[0..3] (R36). -/
  key : Quad
  /-- DIN[0..3] (R37). -/
  din : Quad
  /-- DOUT[0..3] (R38). -/
  dout : Quad
  /-- CTR[0..3] (R39). -/
  ctr : Quad
  /-- SRC (R40). -/
  src : Word
  /-- DST (R41). -/
  dst : Word
  /-- LEN (R42). -/
  len : Word
  /-- OUTLEN (R43). -/
  outlen : Word
  /-- PIN (R44). -/
  pin : Word
  /-- POUT (R45). -/
  pout : Word
  /-- RK[0..31] (R46). -/
  rk : RkFile
  /-- Xw[0..3], the sliding window (R50). -/
  xw : Quad
  /-- RND, the round counter 0 to 32 (R51). -/
  rnd : BitVec 6
  /-- DIR, the subkey-order MUX select; true selects the reverse order (R52). -/
  dir : Bool
  /-- FSEL, the diffusion MUX select; true selects L' and CK (R53). -/
  fsel : Bool
  /-- OPC, the opcode of the running command (R54). -/
  opc : BitVec 4
  /-- BI, the block index of a buffer command (R55). -/
  bi : Nat
  /-- CW, the working counter of CTR_XFORM (R55). -/
  cw : BitVec 128
  /-- BUF (R57). -/
  buf : Memory
  /-- The number of the current power-on, an argument of the free power-on content (R381, Log 4). -/
  launch : Nat
  /-- How many free values have been drawn (Log 3). -/
  draws : Nat
  /-- The level of the hardware reset input (R380, R382). -/
  rstAsserted : Bool
  /-- The coming events, oldest first (Log 2). -/
  agenda : List Event
  /-- The data the bus has returned, newest first (Log 5). -/
  responses : List Response
deriving DecidableEq, Repr

/-- Four zero words. -/
def Quad.zero : Quad := ⟨0, 0, 0, 0⟩

/-- The state right after reset (R59, R380, R382), with the parameters of `Config.taken` (Log 1), an empty
agenda (Log 2) and no BUF byte written (Log 4). -/
def State.reset : State :=
  { cfg := Config.taken
    busy := false, done := false, err := false, rkValid := false, ovr := false, errcode := 0
    ie := false
    key := Quad.zero, din := Quad.zero, dout := Quad.zero, ctr := Quad.zero
    src := 0, dst := 0, len := 0, outlen := 0, pin := 0, pout := 0
    rk := Vector.replicate 32 0
    xw := Quad.zero, rnd := 0, dir := false, fsel := false, opc := 0, bi := 0, cw := 0
    buf := [], launch := 0, draws := 0
    rstAsserted := false, agenda := [], responses := [] }

end Sys2Proof.Machine
end

