-- ==== Sys2Proof/Machine/Primitives.lean ====
section
/-! DEFINITION. Byte order (spec/00_scope.md R11, R12; spec/20_memory.md R81), the constant tables and the S
and diffusion layers (spec/41_primitives.md R180 to R188, R195). -/

namespace Sys2Proof.Machine

open Sys2Proof

/-! ## Byte order -/

/-- `be32` of R12: the first byte is the most significant. -/
def be32 (b0 b1 b2 b3 : Byte) : Word := b0 ++ b1 ++ b2 ++ b3

/-- `unbe32` of R12: the 4 bytes of a word, most significant first. -/
def unbe32 (w : Word) : List Byte :=
  [w.extractLsb' 24 8, w.extractLsb' 16 8, w.extractLsb' 8 8, w.extractLsb' 0 8]

/-- `words(B)` of R12: the four big-endian words of a 16-byte block. -/
def wordsOf (b : List Byte) : Quad :=
  { w0 := be32 (b.getD 0 0) (b.getD 1 0) (b.getD 2 0) (b.getD 3 0)
    w1 := be32 (b.getD 4 0) (b.getD 5 0) (b.getD 6 0) (b.getD 7 0)
    w2 := be32 (b.getD 8 0) (b.getD 9 0) (b.getD 10 0) (b.getD 11 0)
    w3 := be32 (b.getD 12 0) (b.getD 13 0) (b.getD 14 0) (b.getD 15 0) }

/-- The 16 bytes of four words, `unbe32(Q[0]) || … || unbe32(Q[3])` (R47). -/
def bytesOf (q : Quad) : List Byte := unbe32 q.w0 ++ unbe32 q.w1 ++ unbe32 q.w2 ++ unbe32 q.w3

/-- The 128-bit value of four words, `Q[0]·2^96 + Q[1]·2^64 + Q[2]·2^32 + Q[3]` (R39, R47). -/
def valueOf (q : Quad) : BitVec 128 := q.w0 ++ q.w1 ++ q.w2 ++ q.w3

/-- The four words of a 128-bit value: `words(unbe128(c))` (R12, R39). -/
def quadOf (c : BitVec 128) : Quad :=
  { w0 := c.extractLsb' 96 32, w1 := c.extractLsb' 64 32, w2 := c.extractLsb' 32 32, w3 := c.extractLsb' 0 32 }

/-- `unbe128` of R12: the 16 bytes of a 128-bit value, most significant first. -/
def unbe128 (c : BitVec 128) : List Byte := bytesOf (quadOf c)

/-! ## Constant tables -/

/-- The rows of SBOX (R180): row `x[7:4]`, column `x[3:0]`. -/
def sboxRows : List (List Byte) := [
    [0xD6, 0x90, 0xE9, 0xFE, 0xCC, 0xE1, 0x3D, 0xB7, 0x16, 0xB6, 0x14, 0xC2, 0x28, 0xFB, 0x2C, 0x05],
    [0x2B, 0x67, 0x9A, 0x76, 0x2A, 0xBE, 0x04, 0xC3, 0xAA, 0x44, 0x13, 0x26, 0x49, 0x86, 0x06, 0x99],
    [0x9C, 0x42, 0x50, 0xF4, 0x91, 0xEF, 0x98, 0x7A, 0x33, 0x54, 0x0B, 0x43, 0xED, 0xCF, 0xAC, 0x62],
    [0xE4, 0xB3, 0x1C, 0xA9, 0xC9, 0x08, 0xE8, 0x95, 0x80, 0xDF, 0x94, 0xFA, 0x75, 0x8F, 0x3F, 0xA6],
    [0x47, 0x07, 0xA7, 0xFC, 0xF3, 0x73, 0x17, 0xBA, 0x83, 0x59, 0x3C, 0x19, 0xE6, 0x85, 0x4F, 0xA8],
    [0x68, 0x6B, 0x81, 0xB2, 0x71, 0x64, 0xDA, 0x8B, 0xF8, 0xEB, 0x0F, 0x4B, 0x70, 0x56, 0x9D, 0x35],
    [0x1E, 0x24, 0x0E, 0x5E, 0x63, 0x58, 0xD1, 0xA2, 0x25, 0x22, 0x7C, 0x3B, 0x01, 0x21, 0x78, 0x87],
    [0xD4, 0x00, 0x46, 0x57, 0x9F, 0xD3, 0x27, 0x52, 0x4C, 0x36, 0x02, 0xE7, 0xA0, 0xC4, 0xC8, 0x9E],
    [0xEA, 0xBF, 0x8A, 0xD2, 0x40, 0xC7, 0x38, 0xB5, 0xA3, 0xF7, 0xF2, 0xCE, 0xF9, 0x61, 0x15, 0xA1],
    [0xE0, 0xAE, 0x5D, 0xA4, 0x9B, 0x34, 0x1A, 0x55, 0xAD, 0x93, 0x32, 0x30, 0xF5, 0x8C, 0xB1, 0xE3],
    [0x1D, 0xF6, 0xE2, 0x2E, 0x82, 0x66, 0xCA, 0x60, 0xC0, 0x29, 0x23, 0xAB, 0x0D, 0x53, 0x4E, 0x6F],
    [0xD5, 0xDB, 0x37, 0x45, 0xDE, 0xFD, 0x8E, 0x2F, 0x03, 0xFF, 0x6A, 0x72, 0x6D, 0x6C, 0x5B, 0x51],
    [0x8D, 0x1B, 0xAF, 0x92, 0xBB, 0xDD, 0xBC, 0x7F, 0x11, 0xD9, 0x5C, 0x41, 0x1F, 0x10, 0x5A, 0xD8],
    [0x0A, 0xC1, 0x31, 0x88, 0xA5, 0xCD, 0x7B, 0xBD, 0x2D, 0x74, 0xD0, 0x12, 0xB8, 0xE5, 0xB4, 0xB0],
    [0x89, 0x69, 0x97, 0x4A, 0x0C, 0x96, 0x77, 0x7E, 0x65, 0xB9, 0xF1, 0x09, 0xC5, 0x6E, 0xC6, 0x84],
    [0x18, 0xF0, 0x7D, 0xEC, 0x3A, 0xDC, 0x4D, 0x20, 0x79, 0xEE, 0x5F, 0x3E, 0xD7, 0xCB, 0x39, 0x48]]

/-- `SBOX[x]` (R180). -/
def sbox (x : Byte) : Byte :=
  (sboxRows.getD (x.extractLsb' 4 4).toNat []).getD (x.extractLsb' 0 4).toNat 0

/-- `FK[0..3]` (R182). -/
def fk : Quad := { w0 := 0xA3B1BAC6, w1 := 0x56AA3350, w2 := 0x677D9197, w3 := 0xB27022DC }

/-- Byte `j` of `CK[i]`: `((4i + j)·7) mod 256` (R183). -/
def ckByte (i j : Nat) : Byte := BitVec.ofNat 8 ((4 * i + j) * 7)

/-- `CK[i]` (R183). -/
def ck (i : Nat) : Word := be32 (ckByte i 0) (ckByte i 1) (ckByte i 2) (ckByte i 3)

/-! ## The S-layer and the diffusion functions -/

/-- The nonlinear layer τ: each of the 4 bytes through SBOX, independently (R184). -/
def tau (x : Word) : Word :=
  be32 (sbox (x.extractLsb' 24 8)) (sbox (x.extractLsb' 16 8)) (sbox (x.extractLsb' 8 8)) (sbox (x.extractLsb' 0 8))

/-- The linear diffusion L of the cipher rounds (R185); `rotl32` of R11 is `BitVec.rotateLeft`. -/
def diffL (t : Word) : Word :=
  t ^^^ t.rotateLeft 2 ^^^ t.rotateLeft 10 ^^^ t.rotateLeft 18 ^^^ t.rotateLeft 24

/-- The linear diffusion L' of the key schedule (R186). -/
def diffLp (x : Word) : Word := x ^^^ x.rotateLeft 13 ^^^ x.rotateLeft 23

/-- `T = L ∘ τ` (R187). -/
def transT (x : Word) : Word := diffL (tau x)

/-- `T' = L' ∘ τ` (R188). -/
def transTp (x : Word) : Word := diffLp (tau x)

/-- The diffusion MUX: FSEL routes the one S-layer's output through L or L' (R53, R195). -/
def diffuse (fsel : Bool) (x : Word) : Word := if fsel then diffLp x else diffL x

end Sys2Proof.Machine
end

