-- ==== Sys2Proof/Machine/Cipher.lean ====
section
/-! DEFINITION. The round iteration, the key schedule and the single-block transform as pure functions
(spec/42_key_schedule.md R220, R221; spec/43_block_cipher.md R240 to R242, R247 to R249). -/

namespace Sys2Proof.Machine

open Sys2Proof

/-- XOR of two groups of four words (R220). -/
def Quad.xor (a b : Quad) : Quad := ⟨a.w0 ^^^ b.w0, a.w1 ^^^ b.w1, a.w2 ^^^ b.w2, a.w3 ^^^ b.w3⟩

/-- The Feistel stage `x0 ^ T(x1 ^ x2 ^ x3 ^ k)`, for T or T' (R221, R242). -/
def feistel (t : Word → Word) (k : Word) (x : Quad) : Word :=
  x.w0 ^^^ t (x.w1 ^^^ x.w2 ^^^ x.w3 ^^^ k)

/-- The window moved on by one word (R223, R246: `Xw <- [Xw[1], Xw[2], Xw[3], new]`). -/
def Quad.push (x : Quad) (new : Word) : Quad := ⟨x.w1, x.w2, x.w3, new⟩

/-- The window after `n` rounds of `t` with round keys `ks`: the four most recent words of the 36-word
array of R221 and R241. -/
def window (t : Word → Word) (ks : Nat → Word) (x : Quad) : Nat → Quad
  | 0 => x
  | n + 1 => (window t ks x n).push (feistel t (ks n) (window t ks x n))

/-- The output stage: the window in reverse word order (R248). -/
def outputStage (x : Quad) : Quad := ⟨x.w3, x.w2, x.w1, x.w0⟩

/-- `SM4Block` of R241 on words: 32 rounds, then the output stage. -/
def sm4Words (sk : Nat → Word) (x : Quad) : Quad := outputStage (window transT sk x 32)

/-- `SM4Block(B, sk)` of R241 on a 16-byte block. -/
def sm4Block (sk : Nat → Word) (b : List Byte) : List Byte := bytesOf (sm4Words sk (wordsOf b))

/-- The seed `rk[0..3] = mk[0..3] ^ FK[0..3]` (R220). -/
def keySeed (key : Quad) : Quad := key.xor fk

/-- The key-schedule window after `n` rounds: `rk[n..n+3]` (R221, R223). -/
def keyWindow (key : Quad) (n : Nat) : Quad := window transTp ck (keySeed key) n

/-- `KeySchedule(Key)`: `rk[4..35]` in generation order (R221). -/
def keySchedule (key : Quad) : RkFile := Vector.ofFn fun i => (keyWindow key (i.val + 1)).w3

/-- `RK[n]`, for `n` below 32 (R46). -/
def rkAt (rk : RkFile) (n : Nat) : Word := rk[n]?.getD 0

/-- `SubkeyMux(DIR, RND)` (R247). -/
def subkeyMux (rk : RkFile) (dir : Bool) (n : Nat) : Word := if dir then rkAt rk (31 - n) else rkAt rk n

/-- `E_fwd(B)` (R249): encryption. -/
def eFwd (rk : RkFile) (b : List Byte) : List Byte := sm4Block (subkeyMux rk false) b

/-- `E_rev(B)` (R249): decryption. -/
def eRev (rk : RkFile) (b : List Byte) : List Byte := sm4Block (subkeyMux rk true) b

end Sys2Proof.Machine
end

