-- ==== Sys2Proof/Machine/Flags.lean ====
section
/-! DEFINITION. STATUS, the error codes and the interrupt line (spec/10_state.md R33, R49, R58;
spec/40_command_interface.md R141, R144; spec/60_exceptions.md R340, R345, R350). -/

namespace Sys2Proof.Machine

open Sys2Proof

/-- The causes an error reports (R340). -/
inductive ErrorCode where
  | opcode
  | nokey
  | len
  | range
  | overlap
  | ctrOvf
  | unpad
deriving DecidableEq, Repr

/-- The value of STATUS.ERRCODE for each cause (R340). -/
def ErrorCode.code : ErrorCode → BitVec 4
  | .opcode => 1
  | .nokey => 2
  | .len => 3
  | .range => 4
  | .overlap => 5
  | .ctrOvf => 6
  | .unpad => 7

/-- A flag as bit 0 of a word. -/
def flagWord (b : Bool) : Word := if b then 1 else 0

/-- The word a read of STATUS returns (R33, R141). -/
def statusWord (s : State) : Word :=
  (s.errcode.setWidth 32 <<< 8) ||| (flagWord s.ovr <<< 4) ||| (flagWord s.rkValid <<< 3)
    ||| (flagWord s.err <<< 2) ||| (flagWord s.done <<< 1) ||| flagWord s.busy

/-- `StatusWrite(v)` (R144): the write-1-to-clear bits DONE, ERR (with ERRCODE) and OVR. It is also how the
host acknowledges an error (R345). -/
def statusWrite (v : Word) (s : State) : State :=
  { s with
    done := if v.getLsbD 1 then false else s.done
    err := if v.getLsbD 2 then false else s.err
    errcode := if v.getLsbD 2 then 0 else s.errcode
    ovr := if v.getLsbD 4 then false else s.ovr }

/-- The output `irq = CTRL.IE & STATUS.DONE` (R49, R350). -/
def irq (s : State) : Bool := s.ie && s.done

end Sys2Proof.Machine
end

