-- ==== Sys2Proof/Machine/Operands.lean ====
section
/-! DEFINITION. Operands: the register window's map (spec/10_state.md R31), the regions of a buffer command
and the checks on them (spec/20_memory.md R85 to R87), and the early errors of each command in their
priority (spec/60_exceptions.md R341, R342). -/

namespace Sys2Proof.Machine

open Sys2Proof

/-! ## Register groups and the register map -/

/-- `Q[i]` (R13, R47). -/
def Quad.get (q : Quad) (i : Fin 4) : Word :=
  match i with
  | 0 => q.w0
  | 1 => q.w1
  | 2 => q.w2
  | 3 => q.w3

/-- `Q[i] <- v` (R13). -/
def Quad.set (q : Quad) (i : Fin 4) (v : Word) : Quad :=
  match i with
  | 0 => { q with w0 := v }
  | 1 => { q with w1 := v }
  | 2 => { q with w2 := v }
  | 3 => { q with w3 := v }

/-- The identification word (R3, R31). -/
def idWord : Word := 0x534D3401

/-- The registers of R31. -/
inductive Reg where
  | id
  | cmd
  | status
  | ctrl
  | key (i : Fin 4)
  | din (i : Fin 4)
  | dout (i : Fin 4)
  | ctr (i : Fin 4)
  | src
  | dst
  | len
  | outlen
  | pin
  | pout
  | reserved
  | rk (i : Fin 32)
deriving DecidableEq, Repr

/-- The register at offset `off` of the window (R31, R48), for an aligned `off` below 0x100. -/
def regAt (off : Nat) : Reg :=
  if off = 0x000 then .id
  else if off = 0x004 then .cmd
  else if off = 0x008 then .status
  else if off = 0x00C then .ctrl
  else if off < 0x020 then .key (Fin.ofNat 4 ((off - 0x010) / 4))
  else if off < 0x030 then .din (Fin.ofNat 4 ((off - 0x020) / 4))
  else if off < 0x040 then .dout (Fin.ofNat 4 ((off - 0x030) / 4))
  else if off < 0x050 then .ctr (Fin.ofNat 4 ((off - 0x040) / 4))
  else if off = 0x050 then .src
  else if off = 0x054 then .dst
  else if off = 0x058 then .len
  else if off = 0x05C then .outlen
  else if off = 0x060 then .pin
  else if off = 0x064 then .pout
  else if off < 0x080 then .reserved
  else .rk (Fin.ofNat 32 ((off - 0x080) / 4))

/-- The registers whose reads are a free value while BUSY = 1 (R146). -/
def Reg.isResult : Reg → Bool
  | .dout _ => true
  | .outlen => true
  | .pout => true
  | .rk _ => true
  | .id => false
  | .cmd => false
  | .status => false
  | .ctrl => false
  | .key _ => false
  | .din _ => false
  | .ctr _ => false
  | .src => false
  | .dst => false
  | .len => false
  | .pin => false
  | .reserved => false

/-- The offset of a legal register access (R115, R143); none where the access is a bus error. -/
def busOffset (c : Config) (size addr : Nat) : Option Nat :=
  if size = 32 ∧ c.regBase ≤ addr ∧ addr < c.regBase + 0x100 ∧ (addr - c.regBase) % 4 = 0 then
    some (addr - c.regBase)
  else none

/-! ## The running command -/

/-- The command OPC holds (R54), read with the decoder of R119. -/
def latched (s : State) : Except Illegal Instr := decode (s.opc.setWidth 32)

/-- The buffer commands (R85). -/
def isBuffer : Instr → Bool
  | .ecbEnc => true
  | .ecbDec => true
  | .ctrXform => true
  | .keyExpand => false
  | .encBlock => false
  | .decBlock => false
  | .primS => false
  | .primL => false
  | .primLp => false
  | .primT => false
  | .primTp => false

/-- The commands that need the subkeys (R112, R151). -/
def needsSubkeys : Instr → Bool
  | .encBlock => true
  | .decBlock => true
  | .ecbEnc => true
  | .ecbDec => true
  | .ctrXform => true
  | .keyExpand => false
  | .primS => false
  | .primL => false
  | .primLp => false
  | .primT => false
  | .primTp => false

/-- The subkey order a command sets in DIR (R52): reverse for DEC_BLOCK and ECB_DEC. -/
def reverseOrder : Instr → Bool
  | .decBlock => true
  | .ecbDec => true
  | .encBlock => false
  | .ecbEnc => false
  | .ctrXform => false
  | .keyExpand => false
  | .primS => false
  | .primL => false
  | .primLp => false
  | .primT => false
  | .primTp => false

/-! ## Regions of a buffer command -/

/-- The pad length `p = 16 - (LEN mod 16)` (R270). -/
def padLen (n : Nat) : Nat := 16 - n % 16

/-- `OUTMAX` of R85; a command without regions has none. -/
def outMax (i : Instr) (s : State) : Nat :=
  match i with
  | .ecbEnc => s.len.toNat + padLen s.len.toNat
  | .ecbDec => s.len.toNat
  | .ctrXform => s.len.toNat
  | .keyExpand => 0
  | .encBlock => 0
  | .decBlock => 0
  | .primS => 0
  | .primL => 0
  | .primLp => 0
  | .primT => 0
  | .primTp => 0

/-- Address `a` lies in the byte range `[start, start + n)`. -/
def inRange (a start n : Nat) : Bool := start ≤ a && a < start + n

/-- `a` lies in the source region of command `i` (R85). -/
def inSource (i : Instr) (s : State) (a : Nat) : Bool :=
  isBuffer i && inRange a s.src.toNat s.len.toNat

/-- `a` lies in the destination region of command `i` (R85). -/
def inDestination (i : Instr) (s : State) (a : Nat) : Bool :=
  isBuffer i && inRange a s.dst.toNat (outMax i s)

/-- The buffer command that is running, if one is (R90). -/
def runningBuffer (s : State) : Option Instr :=
  if s.busy then
    match latched s with
    | .ok i => if isBuffer i then some i else none
    | .error _ => none
  else none

/-- The range check of R86, on unbounded integers. -/
def outOfRange (memBytes src n dst m : Nat) : Bool := memBytes < src + n || memBytes < dst + m

/-- `Overlap(s, n, d, m)` of R87. -/
def overlap (s n d m : Nat) : Bool := 0 < n && 0 < m && s != d && s < d + m && d < s + n

/-! ## Early errors -/

/-- An error when a condition holds. -/
def errorIf (c : Bool) (e : ErrorCode) : Option ErrorCode := if c then some e else none

/-- The subkey requirement (R151). -/
def keyError (s : State) : Option ErrorCode := errorIf (!s.rkValid) .nokey

/-- The length precondition of ECB_DEC (R273). -/
def lenError (s : State) : Option ErrorCode :=
  errorIf (s.len.toNat == 0 || s.len.toNat % 16 != 0) .len

/-- The range check, then the overlap check, of a buffer command (R86, R87). -/
def regionError (i : Instr) (s : State) : Option ErrorCode :=
  (errorIf (outOfRange s.cfg.memBytes s.src.toNat s.len.toNat s.dst.toNat (outMax i s)) .range).or
    (errorIf (overlap s.src.toNat s.len.toNat s.dst.toNat (outMax i s)) .overlap)

/-- The initial counter `C0` of CTR_XFORM (R39, R301). -/
def counter0 (s : State) : BitVec 128 := valueOf s.ctr

/-- The number of 16-byte blocks of `n` bytes, the last perhaps partial (R301). -/
def blocksOf (n : Nat) : Nat := (n + 15) / 16

/-- The counter overflow check of R301 and R303. -/
def ctrError (s : State) : Option ErrorCode :=
  errorIf (0 < blocksOf s.len.toNat && 2 ^ 128 ≤ (counter0 s).toNat + blocksOf s.len.toNat - 1
    && s.cfg.ctrOvfPolicy == .fault) .ctrOvf

/-- The error a command detects before it writes any result, the first in the order of R342 (R341, R344). -/
def earlyError (i : Instr) (s : State) : Option ErrorCode :=
  match i with
  | .encBlock => keyError s
  | .decBlock => keyError s
  | .ecbEnc => (keyError s).or (regionError .ecbEnc s)
  | .ecbDec => (keyError s).or ((lenError s).or (regionError .ecbDec s))
  | .ctrXform => (keyError s).or ((regionError .ctrXform s).or (ctrError s))
  | .keyExpand => none
  | .primS => none
  | .primL => none
  | .primLp => none
  | .primT => none
  | .primTp => none

end Sys2Proof.Machine
end

