-- ==== Sys2Proof/Machine/Ops.lean ====
section
/-! DEFINITION. The shared operations: BUF (spec/20_memory.md R80, R89), blocks of a buffer, completion and the
error record (spec/40_command_interface.md R150, spec/60_exceptions.md R343), and reset (R152, R380, R381). -/

namespace Sys2Proof.Machine

open Sys2Proof

/-! ## BUF -/

/-- The byte written at `a` since the last power-on, if one was. -/
def Memory.get? : Memory → Nat → Option Byte
  | [], _ => none
  | (k, b) :: m, a => if a = k then some b else Memory.get? m a

/-- Byte `b` written at `a`, the addresses kept rising. -/
def Memory.set : Memory → Nat → Byte → Memory
  | [], a, b => [(a, b)]
  | (k, c) :: m, a, b =>
    if a < k then (a, b) :: (k, c) :: m
    else if a = k then (a, b) :: m
    else (k, c) :: Memory.set m a b

/-- `BUF[a]` (R80, R89): the byte last written there, or the free power-on content (R381, Log 4). -/
def bufByte (s : State) (a : Nat) : Byte := (s.buf.get? a).getD (Config.powerOnByte s.launch a)

/-- `MemRead(addr, n)` (R14). -/
def memRead (s : State) (a : Nat) : Nat → List Byte
  | 0 => []
  | n + 1 => bufByte s a :: memRead s (a + 1) n

/-- `MemWrite(addr, n, B)` (R14). -/
def memWrite (m : Memory) (a : Nat) : List Byte → Memory
  | [] => m
  | b :: bs => memWrite (m.set a b) (a + 1) bs

/-- The source region's bytes (R85, R88). -/
def sourceBytes (s : State) : List Byte := memRead s s.src.toNat s.len.toNat

/-! ## Blocks of a buffer -/

/-- `Pad(P)` (R270): `p` bytes of value `p`. -/
def pad (p : List Byte) : List Byte :=
  p ++ List.replicate (padLen p.length) (BitVec.ofNat 8 (padLen p.length))

/-- The first `n` 16-byte blocks of a buffer, each through `f`, in block order (R271, R274, R277). -/
def mapBlocks (f : List Byte → List Byte) : Nat → List Byte → List Byte
  | 0, _ => []
  | n + 1, b => f (b.take 16) ++ mapBlocks f n (b.drop 16)

/-- Blocks `i` to `i + n - 1` of a buffer XORed with the keystream `ks`; the keystream of a partial last block
is truncated (R301). -/
def xorBlocks (ks : Nat → List Byte) (i : Nat) : Nat → List Byte → List Byte
  | 0, _ => []
  | n + 1, b => List.zipWith (· ^^^ ·) (b.take 16) (ks i) ++ xorBlocks ks (i + 1) n (b.drop 16)

/-- Keystream block `KS(C0, i)` (R300). -/
def keystream (s : State) (i : Nat) : List Byte :=
  eFwd s.rk (unbe128 (counter0 s + BitVec.ofNat 128 i))

/-! ## Completion and the error record -/

/-- `complete()` (R150). -/
def complete (s : State) : State := { s with busy := false, done := true }

/-- `raise EngineError(c)` by command `i` (R150, R343): the error record of STATUS, and OUTLEN = 0 for a buffer
command. The way back is `statusWrite` or the next acceptance (R345). -/
def raiseError (i : Instr) (c : ErrorCode) (s : State) : State :=
  { s with
    outlen := if isBuffer i then 0 else s.outlen
    busy := false, done := true, err := true, errcode := c.code }

/-! ## Reset -/

/-- `n` free bytes, from draw `d` on (Log 3). -/
def drawBytes (d : Nat) : Nat → List Byte
  | 0 => []
  | n + 1 => Config.drawByte d :: drawBytes (d + 1) n

/-- How many bytes of the destination region of command `i` BUF has. -/
def destinationBytes (i : Instr) (s : State) : Nat :=
  min (s.dst.toNat + outMax i s) s.cfg.memBytes - s.dst.toNat

/-- The abort of a running command (R152, R381): each byte of a buffer command's destination region becomes a
free byte, fixed once. -/
def abort (s : State) : State :=
  match runningBuffer s with
  | some i =>
    { s with
      buf := memWrite s.buf s.dst.toNat (drawBytes s.draws (destinationBytes i s))
      draws := s.draws + destinationBytes i s }
  | none => s

/-- Every register, field and internal element at its reset value (R59, R380); BUF, the parameters, the reset
input and the model's interface fields stay. -/
def resetRegisters (s : State) : State :=
  { State.reset with
    cfg := s.cfg, buf := s.buf, launch := s.launch, draws := s.draws
    rstAsserted := s.rstAsserted, agenda := s.agenda, responses := s.responses }

/-- `SoftReset()` (R152). -/
def softReset (s : State) : State := resetRegisters (abort s)

/-- The hardware reset input asserted (R380, R381); a power cycle also makes every BUF byte unspecified. -/
def hardwareReset (powerOn : Bool) (s : State) : State :=
  if powerOn then
    { resetRegisters (abort s) with rstAsserted := true, buf := [], launch := s.launch + 1 }
  else { resetRegisters (abort s) with rstAsserted := true }

end Sys2Proof.Machine
end

