-- ==== Sys2Proof/Machine/Datapath.lean ====
section
/-! DEFINITION. The datapath registers Xw, RND, DIR, FSEL, BI, CW and the internal engine steps
(spec/10_state.md R50 to R55, spec/42_key_schedule.md R223, spec/43_block_cipher.md R246 to R248). No result
depends on them (R56); the architectural effect of a command is applied at its last step (R149, Log 6). -/

namespace Sys2Proof.Machine

open Sys2Proof

/-- How many blocks command `i` puts through the datapath (R243, R244, R271, R274, R301). -/
def blockCount (i : Instr) (s : State) : Nat :=
  match i with
  | .encBlock => 1
  | .decBlock => 1
  | .ecbEnc => outMax .ecbEnc s / 16
  | .ecbDec => s.len.toNat / 16
  | .ctrXform => blocksOf s.len.toNat
  | .keyExpand => 0
  | .primS => 0
  | .primL => 0
  | .primLp => 0
  | .primT => 0
  | .primTp => 0

/-- The input words of block `k` of command `i` (R240, R271, R274, R300). -/
def blockWords (i : Instr) (k : Nat) (s : State) : Quad :=
  match i with
  | .encBlock => s.din
  | .decBlock => s.din
  | .ecbEnc => wordsOf (((pad (sourceBytes s)).drop (16 * k)).take 16)
  | .ecbDec => wordsOf (((sourceBytes s).drop (16 * k)).take 16)
  | .ctrXform => quadOf (counter0 s + BitVec.ofNat 128 k)
  | .keyExpand => Quad.zero
  | .primS => Quad.zero
  | .primL => Quad.zero
  | .primLp => Quad.zero
  | .primT => Quad.zero
  | .primTp => Quad.zero

/-- `start` of R246 for block `k`: the window, RND = 0, FSEL = 0, DIR; BI of a buffer command and CW of CTR_XFORM
(R55). -/
def loadBlock (i : Instr) (k : Nat) (s : State) : State :=
  { s with
    xw := blockWords i k s, rnd := 0, fsel := false, dir := reverseOrder i
    bi := if isBuffer i then k else s.bi
    cw := if i = .ctrXform then counter0 s + BitVec.ofNat 128 k else s.cw }

/-- Command `i` runs block rounds: it needs subkeys, finds no early error and has a block. -/
def runsBlocks (i : Instr) (s : State) : Bool :=
  needsSubkeys i && (earlyError i s).isNone && 0 < blockCount i s

/-- The datapath when command `i` starts (R223, R246): the seed and FSEL = 1 for KEY_EXPAND, block 0 for a command
that runs blocks. -/
def datapathStart (i : Instr) (s : State) : State :=
  if i = .keyExpand then { s with xw := keySeed s.key, rnd := 0, fsel := true }
  else if runsBlocks i s then loadBlock i 0 s
  else s

/-- The round key: CK[RND] when FSEL = 1, else the subkey MUX (R53, R247). -/
def roundKey (s : State) : Word :=
  if s.fsel then ck s.rnd.toNat else subkeyMux s.rk s.dir s.rnd.toNat

/-- One round of R223 and R246: the shared S-layer, the diffusion MUX, the window moved on, RND + 1. -/
def datapathRound (s : State) : State :=
  { s with
    xw := s.xw.push (feistel (fun x => diffuse s.fsel (tau x)) (roundKey s) s.xw)
    rnd := s.rnd + 1 }

/-- One internal engine step of command `i` that is not its last (R149): a round, or the start of the next block, or
nothing left to do. -/
def datapathStep (i : Instr) (s : State) : State :=
  if i = .keyExpand then
    if s.rnd.toNat < 32 then datapathRound s else s
  else if runsBlocks i s then
    if s.rnd.toNat < 32 then datapathRound s
    else if isBuffer i && s.bi + 1 < blockCount i s then loadBlock i (s.bi + 1) s
    else s
  else s

/-- The datapath registers when command `i` ends (R223, R246): 32 rounds of the key schedule or of the last block,
and FSEL = 0 after KEY_EXPAND (R53: "FSEL = 1 only during KEY_EXPAND"). -/
def datapathFinish (i : Instr) (s : State) : State :=
  if i = .keyExpand then { s with xw := keyWindow s.key 32, rnd := 32, fsel := false }
  else if runsBlocks i s then
    { loadBlock i (blockCount i s - 1) s with
      xw := window transT (subkeyMux s.rk (reverseOrder i)) (blockWords i (blockCount i s - 1) s) 32
      rnd := 32 }
  else s

end Sys2Proof.Machine
end

