-- ==== Sys2Proof/Machine/Block.lean ====
section
/-! DEFINITION. ENC_BLOCK and DEC_BLOCK (spec/43_block_cipher.md R243, R244). -/

namespace Sys2Proof.Machine

open Sys2Proof

/-- The shape of R243 and R244: the subkey check, then `DOUT` from `DIN` through the block function `f`. -/
def blockCommand (i : Instr) (f : List Byte → List Byte) (s : State) : Host.Outcome State Fault Refusal :=
  match earlyError i s with
  | some c => .next (raiseError i c s)
  | none => .next (complete { datapathFinish i s with dout := wordsOf (f (bytesOf s.din)) })

/-- ENC_BLOCK (R243). -/
def execEncBlock (s : State) : Host.Outcome State Fault Refusal := blockCommand .encBlock (eFwd s.rk) s

/-- DEC_BLOCK (R244). -/
def execDecBlock (s : State) : Host.Outcome State Fault Refusal := blockCommand .decBlock (eRev s.rk) s

end Sys2Proof.Machine
end

