-- ==== Sys2Proof/Machine/Ctr.lean ====
section
/-! DEFINITION. CTR_XFORM (spec/45_ctr.md R300 to R305). -/

namespace Sys2Proof.Machine

open Sys2Proof

/-- The bytes CTR_XFORM writes (R301): the source XORed with the keystream. -/
def ctrBytes (s : State) : List Byte :=
  xorBlocks (keystream s) 0 (blocksOf s.len.toNat) (sourceBytes s)

/-- CTR_XFORM (R301). CTR itself is unchanged (R302). -/
def execCtrXform (s : State) : Host.Outcome State Fault Refusal :=
  match earlyError .ctrXform s with
  | some c => .next (raiseError .ctrXform c s)
  | none =>
    .next (complete
      { datapathFinish .ctrXform s with
        buf := memWrite s.buf s.dst.toNat (ctrBytes s)
        outlen := s.len })

end Sys2Proof.Machine
end

