-- ==== Sys2Proof/Machine/Ecb.lean ====
section
/-! DEFINITION. ECB_ENC and ECB_DEC (spec/44_ecb.md R270 to R277). -/

namespace Sys2Proof.Machine

open Sys2Proof

/-- The ciphertext ECB_ENC writes (R271): every block of the padded source through `E_fwd`. -/
def ecbEncBytes (s : State) : List Byte :=
  mapBlocks (eFwd s.rk) (outMax .ecbEnc s / 16) (pad (sourceBytes s))

/-- ECB_ENC (R271). -/
def execEcbEnc (s : State) : Host.Outcome State Fault Refusal :=
  match earlyError .ecbEnc s with
  | some c => .next (raiseError .ecbEnc c s)
  | none =>
    .next (complete
      { datapathFinish .ecbEnc s with
        buf := memWrite s.buf s.dst.toNat (ecbEncBytes s)
        outlen := BitVec.ofNat 32 (outMax .ecbEnc s) })

/-- The decrypted buffer D of ECB_DEC, padding included (R274). -/
def ecbDecBytes (s : State) : List Byte :=
  mapBlocks (eRev s.rk) (s.len.toNat / 16) (sourceBytes s)

/-- The value `v` of the last byte of D (R272, R274). -/
def unpadValue (s : State) : Nat := ((ecbDecBytes s).getD (s.len.toNat - 1) 0).toNat

/-- ECB_DEC (R274): D is written first; `v > LEN` then ends the command with ERR_UNPAD. -/
def execEcbDec (s : State) : Host.Outcome State Fault Refusal :=
  match earlyError .ecbDec s with
  | some c => .next (raiseError .ecbDec c s)
  | none =>
    let written : State :=
      { datapathFinish .ecbDec s with buf := memWrite s.buf s.dst.toNat (ecbDecBytes s) }
    if s.len.toNat < unpadValue s then .next (raiseError .ecbDec .unpad written)
    else .next (complete { written with outlen := BitVec.ofNat 32 (s.len.toNat - unpadValue s) })

end Sys2Proof.Machine
end

