-- ==== Sys2Proof/Machine/KeyExpand.lean ====
section
/-! DEFINITION. KEY_EXPAND (spec/42_key_schedule.md R222). -/

namespace Sys2Proof.Machine

open Sys2Proof

/-- KEY_EXPAND (R222): RK and RK_VALID; no error. -/
def execKeyExpand (s : State) : Host.Outcome State Fault Refusal :=
  .next (complete { datapathFinish .keyExpand s with rk := keySchedule s.key, rkValid := true })

end Sys2Proof.Machine
end

