-- ==== Sys2Proof/Machine/Prim.lean ====
section
/-! DEFINITION. The PRIM commands (spec/41_primitives.md R190 to R194): POUT from PIN, no error, no subkeys. -/

namespace Sys2Proof.Machine

open Sys2Proof

/-- The shape of R190 to R194: `POUT <- f(PIN); complete()`. -/
def primCommand (f : Word → Word) (s : State) : Host.Outcome State Fault Refusal :=
  .next (complete { s with pout := f s.pin })

/-- PRIM_S (R190). -/
def execPrimS (s : State) : Host.Outcome State Fault Refusal := primCommand tau s

/-- PRIM_L (R191). -/
def execPrimL (s : State) : Host.Outcome State Fault Refusal := primCommand diffL s

/-- PRIM_LP (R192). -/
def execPrimLp (s : State) : Host.Outcome State Fault Refusal := primCommand diffLp s

/-- PRIM_T (R193). -/
def execPrimT (s : State) : Host.Outcome State Fault Refusal := primCommand transT s

/-- PRIM_TP (R194). -/
def execPrimTp (s : State) : Host.Outcome State Fault Refusal := primCommand transTp s

end Sys2Proof.Machine
end

