-- ==== Sys2Proof/Machine/Dispatch.lean ====
section
/-! DEFINITION. `Exec(OPC)` of spec/40_command_interface.md R149: the command's rule, then its completion. -/

namespace Sys2Proof.Machine

open Sys2Proof

def exec (i : Instr) (s : State) : Host.Outcome State Fault Refusal :=
  match i with
  | .keyExpand => Sys2Proof.Machine.execKeyExpand s
  | .encBlock => Sys2Proof.Machine.execEncBlock s
  | .decBlock => Sys2Proof.Machine.execDecBlock s
  | .ecbEnc => Sys2Proof.Machine.execEcbEnc s
  | .ecbDec => Sys2Proof.Machine.execEcbDec s
  | .ctrXform => Sys2Proof.Machine.execCtrXform s
  | .primS => Sys2Proof.Machine.execPrimS s
  | .primL => Sys2Proof.Machine.execPrimL s
  | .primLp => Sys2Proof.Machine.execPrimLp s
  | .primT => Sys2Proof.Machine.execPrimT s
  | .primTp => Sys2Proof.Machine.execPrimTp s

end Sys2Proof.Machine
end

