-- ==== Sys2Proof/Machine/HostAccess.lean ====
section
/-! DEFINITION. The host's operations: register reads and writes, acceptance of a command, BUF reads and writes
(spec/40_command_interface.md R140 to R148, spec/20_memory.md R89, R90). -/

namespace Sys2Proof.Machine

open Sys2Proof

/-! ## Register reads -/

/-- The value `RegRead` returns (R141); `draw` stands for `draw32`. -/
def regValue (s : State) (draw : Word) : Reg → Word
  | .id => idWord
  | .cmd => 0
  | .status => statusWord s
  | .ctrl => flagWord s.ie
  | .key _ => 0
  | .din i => s.din.get i
  | .dout i => if s.busy then draw else s.dout.get i
  | .ctr i => s.ctr.get i
  | .src => s.src
  | .dst => s.dst
  | .len => s.len
  | .outlen => if s.busy then draw else s.outlen
  | .pin => s.pin
  | .pout => if s.busy then draw else s.pout
  | .reserved => 0
  | .rk i => if s.busy then draw else rkAt s.rk i.val

/-- `RegRead(off)` (R141): the value goes to the host; nothing of the engine changes (R84). -/
def regRead (off : Nat) (s : State) : State :=
  { s with
    responses := .reg off (regValue s (Config.draw32 s.draws) (regAt off)) :: s.responses
    draws := if s.busy && (regAt off).isResult then s.draws + 1 else s.draws }

/-! ## Register writes -/

/-- Acceptance of command `i` while idle (R147, after the status fields are cleared): OPC and BUSY, and the start of
the datapath (R223, R246). -/
def acceptCommand (i : Instr) (s : State) : State :=
  datapathStart i { s with opc := opcode i, busy := true }

/-- `CmdWrite(w)` (R147 while idle, R148 while busy). -/
def cmdWrite (w : Word) (s : State) : State :=
  if s.busy then { s with ovr := true }
  else
    match decode w with
    | .error _ => { s with done := true, err := true, errcode := ErrorCode.code .opcode }
    | .ok i => acceptCommand i { s with done := false, err := false, errcode := 0 }

/-- A CTRL write (R35, R142): SRST takes precedence over IE. -/
def ctrlWrite (v : Word) (s : State) : State :=
  if v.getLsbD 1 then softReset s else { s with ie := v.getLsbD 0 }

/-- An operand write: dropped while busy (R145). -/
def operandWrite (s : State) (written : State) : State := if s.busy then s else written

/-- `RegWrite(off, v)` (R142). -/
def regWrite (off : Nat) (v : Word) (s : State) : State :=
  match regAt off with
  | .cmd => cmdWrite v s
  | .status => statusWrite v s
  | .ctrl => ctrlWrite v s
  | .key i => operandWrite s { s with key := s.key.set i v, rkValid := false }
  | .din i => operandWrite s { s with din := s.din.set i v }
  | .ctr i => operandWrite s { s with ctr := s.ctr.set i v }
  | .src => operandWrite s { s with src := v }
  | .dst => operandWrite s { s with dst := v }
  | .len => operandWrite s { s with len := v }
  | .pin => operandWrite s { s with pin := v }
  | .id => s
  | .dout _ => s
  | .outlen => s
  | .pout => s
  | .reserved => s
  | .rk _ => s

/-! ## BUF -/

/-- `a` lies in the destination region of the running buffer command (R90). -/
def busyDestination (s : State) (a : Nat) : Bool :=
  match runningBuffer s with
  | some i => inDestination i s a
  | none => false

/-- `a` lies in the source region of the running buffer command (R90). -/
def busySource (s : State) (a : Nat) : Bool :=
  match runningBuffer s with
  | some i => inSource i s a
  | none => false

/-- `BufRead(a)` (R89, R90): a free byte in a busy destination region, else the byte. -/
def bufRead (a : Nat) (s : State) : State :=
  if busyDestination s a then
    { s with responses := .buf a (Config.drawByte s.draws) :: s.responses, draws := s.draws + 1 }
  else { s with responses := .buf a (bufByte s a) :: s.responses }

/-- `BufWrite(a, b)` where it is allowed (R89, R90). -/
def bufWrite (a : Nat) (b : Byte) (s : State) : State := { s with buf := s.buf.set a b }

/-! ## One host operation -/

/-- A register access: a bus error if it is illegal (R143), else `access` at its offset. -/
def registerAccess (size addr : Nat) (access : Nat → State → State) (s : State) :
    Host.Outcome State Fault Refusal :=
  match busOffset s.cfg size addr with
  | some off => .next (access off s)
  | none => .fault (.hostBusError ((addr : Int) - (s.cfg.regBase : Int)))

/-- One host operation with the reset input released (R140). -/
def hostAccess (op : HostOp) (s : State) : Host.Outcome State Fault Refusal :=
  match op with
  | .regRead size addr => registerAccess size addr regRead s
  | .regWrite size addr v => registerAccess size addr (fun off => regWrite off v) s
  | .bufRead a => if a < s.cfg.memBytes then .next (bufRead a s) else .fault (.bufNoSuchAddress a)
  | .bufWrite a b =>
    if a < s.cfg.memBytes then
      if busySource s a || busyDestination s a then .refused (.hostWriteIntoBusyRegion a)
      else .next (bufWrite a b s)
    else .fault (.bufNoSuchAddress a)

/-- One host operation; none is modelled while the reset input is asserted (R382, S6). -/
def hostStep (op : HostOp) (s : State) : Host.Outcome State Fault Refusal :=
  if s.rstAsserted then .refused .hostTransactionDuringReset else hostAccess op s

end Sys2Proof.Machine
end

