-- ==== Sys2Proof/Machine/Engine.lean ====
section
/-! DEFINITION. The engine's steps, the choice of the next event, and what each event does
(spec/40_command_interface.md R149, spec/70_reset_and_hazards.md R380 to R382). -/

namespace Sys2Proof.Machine

open Sys2Proof

/-- An internal step that is not the last (R149); nothing while idle. -/
def engineStep (s : State) : State :=
  if s.busy then
    match latched s with
    | .ok i => datapathStep i s
    | .error _ => s
  else s

/-- The last step of the running command (R149): `Exec(OPC)`; nothing while idle. -/
def engineLast (s : State) : Host.Outcome State Fault Refusal :=
  if s.busy then
    match latched s with
    | .ok i => exec i s
    | .error _ => .refused (.noCommandLatched s.opc)
  else .next s

/-- What one event does. -/
def perform (e : Event) (s : State) : Host.Outcome State Fault Refusal :=
  match e with
  | .host op => hostStep op s
  | .engineStep => .next (engineStep s)
  | .engineLast => engineLast s
  | .resetAssert powerOn => .next (hardwareReset powerOn s)
  | .resetRelease => .next { s with rstAsserted := false }

/-- The next event: the oldest of the agenda. With an empty agenda a busy engine takes its last step (fairness,
R149) and an idle one holds all state (R358). -/
def nextEvent (s : State) : Option Event :=
  match s.agenda with
  | e :: _ => some e
  | [] => if s.busy then some .engineLast else none

/-- The state with the next event taken off the agenda. -/
def takeEvent (s : State) : State := { s with agenda := s.agenda.tail }

/-- The state in which the very next step runs command word `w`. A legal word is accepted as R147 says and the engine's
last step comes next; an illegal one is the host's next CMD write, which R147 completes within the write. -/
def presentWord (w : Word) (s : State) : State :=
  match decode w with
  | .ok i =>
    { acceptCommand i { s with done := false, err := false, errcode := 0 } with
      rstAsserted := false, agenda := .engineLast :: s.agenda }
  | .error _ =>
    { s with
      busy := false, rstAsserted := false
      agenda := .host (.regWrite 32 (s.cfg.regBase + 4) w) :: s.agenda }

end Sys2Proof.Machine
end

