-- ==== Sys2Proof/Machine/Step.lean ====
section
/-! DEFINITION. One step: the next event of the agenda (Log 2). -/

namespace Sys2Proof.Machine

open Sys2Proof

/-- One step of the machine: one host operation, one engine step or one change of the reset input. -/
def step (s : State) : Host.Outcome State Fault Refusal :=
  match nextEvent s with
  | some e => perform e (takeEvent s)
  | none => .next s

/-- `s` with the command word `w` of `nbits` bits latched so that the very next step runs it (Log 7). -/
def State.withFetchWord (s : State) (nbits w : Nat) : State :=
  presentWord (BitVec.ofNat 32 (w % 2 ^ nbits)) s

end Sys2Proof.Machine
end

