-- ==== Sys2Proof/Safety.lean ====
section
/-! DEFINITION. What claims are stated in: the reset values, the invariants of the spec, what a failed command may
change, and which events the contract between host and engine allows. -/

namespace Sys2Proof.Machine

open Sys2Proof

/-- Every register, field and internal element has the value R59 gives for reset. -/
structure HasResetValues (s : State) : Prop where
  busy : s.busy = false
  done : s.done = false
  err : s.err = false
  rkValid : s.rkValid = false
  ovr : s.ovr = false
  errcode : s.errcode = 0
  ie : s.ie = false
  key : s.key = ⟨0, 0, 0, 0⟩
  din : s.din = ⟨0, 0, 0, 0⟩
  dout : s.dout = ⟨0, 0, 0, 0⟩
  ctr : s.ctr = ⟨0, 0, 0, 0⟩
  src : s.src = 0
  dst : s.dst = 0
  len : s.len = 0
  outlen : s.outlen = 0
  pin : s.pin = 0
  pout : s.pout = 0
  rk : ∀ i, i < 32 → rkAt s.rk i = 0
  xw : s.xw = ⟨0, 0, 0, 0⟩
  rnd : s.rnd = 0
  dir : s.dir = false
  fsel : s.fsel = false
  opc : s.opc = 0
  bi : s.bi = 0
  cw : s.cw = 0

/-- The invariant of the engine: the STATUS invariants of R33, no code above 7 (R340), a command latched while busy
(R54, R147), RND at most 32 (R51), FSEL = 1 only during KEY_EXPAND (R53), valid subkeys are those of KEY (R36, R151,
R224), BUF in canonical form and inside MEM_BYTES (R57), OUTLEN at most MEM_BYTES (R43), and the reset state while the
reset input is asserted (R380). -/
structure EngineInv (s : State) : Prop where
  cfgLegal : s.cfg.wellFormed = true
  busyClears : s.busy = true → s.done = false ∧ s.err = false
  codeIffErr : s.errcode = 0 ↔ s.err = false
  codeLegal : s.errcode.toNat ≤ 7
  busyLatched : s.busy = true → ∃ i, latched s = .ok i
  rndBound : s.rnd.toNat ≤ 32
  fselOnlyKey : s.fsel = true → s.busy = true ∧ latched s = .ok .keyExpand
  subkeysOfKey : s.rkValid = true → s.rk = keySchedule s.key
  bufWf : s.buf.wf = true
  bufInside : ∀ c ∈ s.buf, c.1 < s.cfg.memBytes
  outlenBound : s.outlen.toNat ≤ s.cfg.memBytes
  heldInReset : s.rstAsserted = true → HasResetValues s

/-- The block the datapath works on: BI for a buffer command, else the one block (R55). -/
def currentBlock (i : Instr) (s : State) : Nat := if isBuffer i then s.bi else 0

/-- The invariant of the datapath while a command runs (R50, R52, R53, R55, R223, R246): Xw is the window of the key
schedule, or of the current block's iteration, after RND rounds. -/
def DatapathInv (s : State) : Prop :=
  s.busy = true → ∀ i, latched s = .ok i →
    (i = .keyExpand → s.fsel = true ∧ s.xw = keyWindow s.key s.rnd.toNat) ∧
    (runsBlocks i s = true →
      s.fsel = false ∧ s.dir = reverseOrder i
      ∧ (isBuffer i = true → s.bi < blockCount i s)
      ∧ (i = .ctrXform → s.cw = counter0 s + BitVec.ofNat 128 s.bi)
      ∧ s.xw = window transT (subkeyMux s.rk (reverseOrder i)) (blockWords i (currentBlock i s) s)
          s.rnd.toNat)

/-- The host operations the contract allows: legal register accesses (R143), BUF addresses that exist (R89), no write
into a region of a running buffer command (R90), nothing while the reset input is asserted (R382). -/
def hostAllowed (op : HostOp) (s : State) : Bool :=
  !s.rstAsserted &&
    match op with
    | .regRead size addr => (busOffset s.cfg size addr).isSome
    | .regWrite size addr _ => (busOffset s.cfg size addr).isSome
    | .bufRead a => decide (a < s.cfg.memBytes)
    | .bufWrite a _ => decide (a < s.cfg.memBytes) && !busySource s a && !busyDestination s a

/-- The events the contract allows: every engine step and every reset, and the allowed host operations. -/
def eventAllowed (e : Event) (s : State) : Bool :=
  match e with
  | .host op => hostAllowed op s
  | .engineStep => true
  | .engineLast => true
  | .resetAssert _ => true
  | .resetRelease => true

/-- The next step is one the contract allows. -/
def Safe (s : State) : Prop := ∀ e, nextEvent s = some e → eventAllowed e s = true

/-- What a command may change besides its results: STATUS's BUSY and DONE at completion (R150), and the hidden
datapath registers (R56). `t` agrees with `s` on everything else except BUF, DOUT, OUTLEN, POUT, RK, RK_VALID, ERR and
ERRCODE. -/
def OperandsKept (s t : State) : Prop :=
  t.cfg = s.cfg ∧ t.ovr = s.ovr ∧ t.ie = s.ie ∧ t.key = s.key ∧ t.din = s.din ∧ t.ctr = s.ctr ∧ t.src = s.src
    ∧ t.dst = s.dst ∧ t.len = s.len ∧ t.pin = s.pin ∧ t.opc = s.opc ∧ t.launch = s.launch ∧ t.draws = s.draws
    ∧ t.rstAsserted = s.rstAsserted ∧ t.agenda = s.agenda ∧ t.responses = s.responses

/-- The state after a command that changes no result ends with error code `c`: STATUS only (R150, R343, R344). -/
def failedWith (c : BitVec 4) (s : State) : State :=
  { s with busy := false, done := true, err := true, errcode := c }

/-- The same for a buffer command, whose OUTLEN becomes 0 (R150, R343, R344). -/
def failedBufferWith (c : BitVec 4) (s : State) : State :=
  { s with outlen := 0, busy := false, done := true, err := true, errcode := c }

end Sys2Proof.Machine
end

