-- ==== Sys2Proof/Certificates/Slice0/Obligations.lean ====
section
/-! DEFINITION. The statements about the model, each from the numbered rules of spec/. OBLIGATIONS.json lists them with
their rules. A state `s` is any state: with premises on the state and the operands alone, never on a run. -/

open Sys2Proof Sys2Proof.Machine

/-! ## Reset -/

/-- R59: every register, field and internal element after the hardware reset and after the soft reset, `irq` = 0, the
constant ID, and BUF: unspecified after power-on (a free value per address), not changed by a soft reset that aborts no
buffer command. -/
def Obligations.ResetGivesTheSpecValues : Prop :=
  HasResetValues State.reset ∧ irq State.reset = false
  ∧ (∀ a, bufByte State.reset a = Config.powerOnByte State.reset.launch a)
  ∧ (∀ s, HasResetValues (softReset s) ∧ irq (softReset s) = false)
  ∧ (∀ s powerOn, HasResetValues (hardwareReset powerOn s) ∧ irq (hardwareReset powerOn s) = false)
  ∧ (∀ s, runningBuffer s = none → ∀ a, bufByte (softReset s) a = bufByte s a)
  ∧ (∀ s a, bufByte (hardwareReset true s) a = Config.powerOnByte (s.launch + 1) a)
  ∧ (∀ s draw, regValue s draw .id = 0x534D3401)

/-- R152: a soft reset, through a CTRL write with bit 1 = 1, returns every register to its reset value; if a buffer
command runs, each byte of its destination region that BUF has becomes a free byte, a fresh one for each, and no other
byte changes; otherwise no byte changes. -/
def Obligations.SoftResetAbortsTheRunningCommand : Prop :=
  ∀ (s : State) (v : Word) (rest : List Event),
    s.rstAsserted = false → v.getLsbD 1 = true →
    s.agenda = .host (.regWrite 32 (s.cfg.regBase + 0x00C) v) :: rest →
    ∃ t, step s = .next t ∧ HasResetValues t ∧ irq t = false ∧ t.agenda = rest ∧ t.cfg = s.cfg
      ∧ (∀ i, s.busy = true → latched s = .ok i → isBuffer i = true →
          ∀ a, a < s.cfg.memBytes →
            (s.dst.toNat ≤ a ∧ a < s.dst.toNat + outMax i s →
              bufByte t a = Config.drawByte (s.draws + (a - s.dst.toNat)) ∧ s.draws + (a - s.dst.toNat) < t.draws)
            ∧ (¬(s.dst.toNat ≤ a ∧ a < s.dst.toNat + outMax i s) → bufByte t a = bufByte s a))
      ∧ ((s.busy = false ∨ ∃ i, latched s = .ok i ∧ isBuffer i = false) → ∀ a, bufByte t a = bufByte s a)

/-- R381, R382: the hardware reset input puts the reset values in place; a power cycle leaves every BUF byte free; a
system reset aborts a running buffer command as a soft reset does and otherwise changes no BUF byte; while the input is
asserted the model refuses every host operation (Log 2), and the first operation after the release sees the reset
state. -/
def Obligations.HardwareResetInput : Prop :=
  ∀ (s : State) (powerOn : Bool) (rest : List Event), s.agenda = .resetAssert powerOn :: rest →
    ∃ t, step s = .next t ∧ HasResetValues t ∧ t.rstAsserted = true ∧ t.agenda = rest
      ∧ (powerOn = true → ∀ a, bufByte t a = Config.powerOnByte (s.launch + 1) a)
      ∧ (powerOn = false → ∀ i, s.busy = true → latched s = .ok i → isBuffer i = true →
          ∀ a, a < s.cfg.memBytes →
            (s.dst.toNat ≤ a ∧ a < s.dst.toNat + outMax i s →
              bufByte t a = Config.drawByte (s.draws + (a - s.dst.toNat)))
            ∧ (¬(s.dst.toNat ≤ a ∧ a < s.dst.toNat + outMax i s) → bufByte t a = bufByte s a))
      ∧ (powerOn = false → (s.busy = false ∨ ∃ i, latched s = .ok i ∧ isBuffer i = false) →
          ∀ a, bufByte t a = bufByte s a)
      ∧ (∀ op more, step { t with agenda := .host op :: more } = .refused .hostTransactionDuringReset)
      ∧ (∀ more, ∃ u, step { t with agenda := .resetRelease :: more } = .next u
          ∧ HasResetValues u ∧ u.rstAsserted = false ∧ u.agenda = more)

/-! ## Decoding and stepping -/

/-- The 11 words of R112 and a few illegal ones (R111, R113), written out. -/
def Obligations.OpcodeTableWordsDecode : Prop :=
  decode 0x00000001#32 = .ok .keyExpand ∧ decode 0x00000002#32 = .ok .encBlock
  ∧ decode 0x00000003#32 = .ok .decBlock ∧ decode 0x00000004#32 = .ok .ecbEnc
  ∧ decode 0x00000005#32 = .ok .ecbDec ∧ decode 0x00000006#32 = .ok .ctrXform
  ∧ decode 0x00000008#32 = .ok .primS ∧ decode 0x00000009#32 = .ok .primL
  ∧ decode 0x0000000A#32 = .ok .primLp ∧ decode 0x0000000B#32 = .ok .primT
  ∧ decode 0x0000000C#32 = .ok .primTp
  ∧ decode 0x00000000#32 = .error (.reservedOpcode 0x0) ∧ decode 0x00000007#32 = .error (.reservedOpcode 0x7)
  ∧ decode 0x00000011#32 = .error .reservedBits ∧ decode 0x80000001#32 = .error .reservedBits

/-- R119: decoding is total over all 2^32 words; each of the 11 words of the map is the only word of its command; every word
with RSV ≠ 0, or RSV = 0 and OP reserved, is illegal and no other word is. `encode` gives the word back. -/
def Obligations.DecodeAcceptsExactlyTheOpcodeMap : Prop :=
  ∀ w : Word,
    (decode w = .ok .keyExpand ↔ w = 0x1#32) ∧ (decode w = .ok .encBlock ↔ w = 0x2#32)
    ∧ (decode w = .ok .decBlock ↔ w = 0x3#32) ∧ (decode w = .ok .ecbEnc ↔ w = 0x4#32)
    ∧ (decode w = .ok .ecbDec ↔ w = 0x5#32) ∧ (decode w = .ok .ctrXform ↔ w = 0x6#32)
    ∧ (decode w = .ok .primS ↔ w = 0x8#32) ∧ (decode w = .ok .primL ↔ w = 0x9#32)
    ∧ (decode w = .ok .primLp ↔ w = 0xA#32) ∧ (decode w = .ok .primT ↔ w = 0xB#32)
    ∧ (decode w = .ok .primTp ↔ w = 0xC#32)
    ∧ ((∃ e, decode w = .error e) ↔
        (w.extractLsb' 4 28 ≠ 0#28
          ∨ w.extractLsb' 0 4 ∈ [0x0#4, 0x7#4, 0xD#4, 0xE#4, 0xF#4]))
    ∧ (∀ i, decode w = .ok i ↔ w = encode i)
    ∧ ((∃ i, decode w = .ok i) ↔ wellFormedWord w = true)

/-- A step runs the decoded command (R149): with BUSY = 1, the engine's last step next, and OPC the OP field of a word
that decodes to `i`, a step is `exec i` on the state with that event taken off the agenda; the engine's last step is
next when the agenda says so, or when the agenda is empty (the model's choice, Log 2). -/
def Obligations.StepRunsTheLatchedCommand : Prop :=
  ∀ (s : State) (w : Word) (i : Instr), decode w = .ok i → s.busy = true → s.opc = w.extractLsb' 0 4 →
    (∀ rest, s.agenda = .engineLast :: rest → step s = exec i { s with agenda := rest })
    ∧ (s.agenda = [] → step s = exec i s)

/-- A step runs the word presented to the engine (R147, R149, Log 7): a word of the opcode table, once latched, is run as
`exec` of the decoded command on the accepted state; an illegal word is rejected within the step, STATUS alone changed. -/
def Obligations.StepRunsThePresentedWord : Prop :=
  ∀ (s : State) (nbits w : Nat),
    (∀ i, decodeTableWord nbits w = some i →
      step (s.withFetchWord nbits w)
        = exec i (acceptCommand i { s with done := false, err := false, errcode := 0, rstAsserted := false }))
    ∧ (nbits ≤ 32 → decodeTableWord nbits w = none →
      step (s.withFetchWord nbits w) = .next
        { s with busy := false, rstAsserted := false, done := true, err := true, errcode := 1 })

/-! ## The S-layer, the diffusion functions and the PRIM commands -/

/-- R181: SBOX is a permutation, its only fixed point is 0xAB, `SBOX[0x00] = 0xD6`, `SBOX[0xFF] = 0x48`. -/
def Obligations.SboxIsAPermutation : Prop :=
  (∀ y : Byte, ∃ x : Byte, sbox x = y) ∧ (∀ x y : Byte, sbox x = sbox y → x = y)
  ∧ (∀ x : Byte, sbox x = x ↔ x = 0xAB#8) ∧ sbox 0x00#8 = 0xD6#8 ∧ sbox 0xFF#8 = 0x48#8

/-- R183: byte j of CK[i] is ((4i + j)·7) mod 256, byte 0 the most significant, and the 32 values of the table. -/
def Obligations.CkFormulaGivesTheTable : Prop :=
  (∀ i j, i < 32 → j < 4 →
    ((ck i).extractLsb' (8 * (3 - j)) 8).toNat = ((4 * i + j) * 7) % 256)
  ∧ (List.range 32).map ck =
    [0x00070E15#32, 0x1C232A31#32, 0x383F464D#32, 0x545B6269#32, 0x70777E85#32, 0x8C939AA1#32, 0xA8AFB6BD#32,
     0xC4CBD2D9#32, 0xE0E7EEF5#32, 0xFC030A11#32, 0x181F262D#32, 0x343B4249#32, 0x50575E65#32, 0x6C737A81#32,
     0x888F969D#32, 0xA4ABB2B9#32] ++
    [0xC0C7CED5#32, 0xDCE3EAF1#32, 0xF8FF060D#32, 0x141B2229#32, 0x30373E45#32, 0x4C535A61#32, 0x686F767D#32,
     0x848B9299#32, 0xA0A7AEB5#32, 0xBCC3CAD1#32, 0xD8DFE6ED#32, 0xF4FB0209#32, 0x10171E25#32, 0x2C333A41#32,
     0x484F565D#32, 0x646B7279#32]

/-- R184: τ substitutes each byte through SBOX, and each output byte depends only on the input byte in the same
position. -/
def Obligations.TauSubstitutesBytesIndependently : Prop :=
  (∀ x : Word,
    tau x = ((sbox (x.extractLsb' 24 8)).setWidth 32 <<< 24) ||| ((sbox (x.extractLsb' 16 8)).setWidth 32 <<< 16)
      ||| ((sbox (x.extractLsb' 8 8)).setWidth 32 <<< 8) ||| (sbox (x.extractLsb' 0 8)).setWidth 32)
  ∧ ∀ (x y : Word) (j : Nat), j < 4 → x.extractLsb' (8 * j) 8 = y.extractLsb' (8 * j) 8 →
      (tau x).extractLsb' (8 * j) 8 = (tau y).extractLsb' (8 * j) 8

/-- R185, R186, R11: L and L' bit by bit. Bit i of `rotl32(x, n)` is bit i − n mod 32 of x. -/
def Obligations.DiffusionBitFormulas : Prop :=
  ∀ (x : Word) (i : Nat), i < 32 →
    (diffL x).getLsbD i = (x.getLsbD i ^^ x.getLsbD ((i + 30) % 32) ^^ x.getLsbD ((i + 22) % 32)
      ^^ x.getLsbD ((i + 14) % 32) ^^ x.getLsbD ((i + 8) % 32))
    ∧ (diffLp x).getLsbD i = (x.getLsbD i ^^ x.getLsbD ((i + 19) % 32) ^^ x.getLsbD ((i + 9) % 32))

/-- R189: L and L' are linear, fix 0 and the all-ones word, and τ is a bijection. -/
def Obligations.DiffusionIsLinearAndTauBijective : Prop :=
  (∀ a b : Word, diffL (a ^^^ b) = diffL a ^^^ diffL b ∧ diffLp (a ^^^ b) = diffLp a ^^^ diffLp b)
  ∧ diffL 0 = 0 ∧ diffLp 0 = 0
  ∧ diffL 0xFFFFFFFF#32 = 0xFFFFFFFF#32 ∧ diffLp 0xFFFFFFFF#32 = 0xFFFFFFFF#32
  ∧ (∀ x y : Word, tau x = tau y → x = y) ∧ (∀ y : Word, ∃ x, tau x = y)

/-- R190: PRIM_S: its word, BUSY once accepted, its effect and frame in every state, its corner cases and example. -/
def Obligations.PrimSAppliesTau : Prop :=
  decode 0x00000008#32 = .ok .primS
  ∧ (∀ s, s.busy = false → (cmdWrite 0x00000008 s).busy = true ∧ (cmdWrite 0x00000008 s).done = false
      ∧ (cmdWrite 0x00000008 s).err = false)
  ∧ (∀ s, exec .primS s = .next { s with pout := tau s.pin, busy := false, done := true })
  ∧ tau 0 = 0xD6D6D6D6#32 ∧ tau 0xFFFFFFFF#32 = 0x48484848#32 ∧ tau 0xABABABAB#32 = 0xABABABAB#32
  ∧ tau 0x01234567#32 = 0x90F473A2#32

/-- R191: PRIM_L. -/
def Obligations.PrimLAppliesL : Prop :=
  decode 0x00000009#32 = .ok .primL
  ∧ (∀ s, s.busy = false → (cmdWrite 0x00000009 s).busy = true ∧ (cmdWrite 0x00000009 s).done = false
      ∧ (cmdWrite 0x00000009 s).err = false)
  ∧ (∀ s, exec .primL s = .next { s with pout := diffL s.pin, busy := false, done := true })
  ∧ diffL 0 = 0 ∧ diffL 0xFFFFFFFF#32 = 0xFFFFFFFF#32 ∧ diffL 0x80000000#32 = 0x80820202#32
  ∧ diffL 0x00000001#32 = 0x01040405#32

/-- R192: PRIM_LP. -/
def Obligations.PrimLpAppliesLp : Prop :=
  decode 0x0000000A#32 = .ok .primLp
  ∧ (∀ s, s.busy = false → (cmdWrite 0x0000000A s).busy = true ∧ (cmdWrite 0x0000000A s).done = false
      ∧ (cmdWrite 0x0000000A s).err = false)
  ∧ (∀ s, exec .primLp s = .next { s with pout := diffLp s.pin, busy := false, done := true })
  ∧ diffLp 0 = 0 ∧ diffLp 0xFFFFFFFF#32 = 0xFFFFFFFF#32 ∧ diffLp 0x80000000#32 = 0x80401000#32
  ∧ diffLp 0x00000001#32 = 0x00802001#32

/-- R193: PRIM_T. -/
def Obligations.PrimTAppliesT : Prop :=
  decode 0x0000000B#32 = .ok .primT
  ∧ (∀ s, s.busy = false → (cmdWrite 0x0000000B s).busy = true ∧ (cmdWrite 0x0000000B s).done = false
      ∧ (cmdWrite 0x0000000B s).err = false)
  ∧ (∀ s, exec .primT s = .next { s with pout := diffL (tau s.pin), busy := false, done := true })
  ∧ diffL (tau 0) = 0x5B5B5B5B#32 ∧ diffL (tau 0xFFFFFFFF#32) = 0x21212121#32
  ∧ diffL (tau 0x01234567#32) = 0x6EF180C9#32

/-- R194: PRIM_TP. -/
def Obligations.PrimTpAppliesTp : Prop :=
  decode 0x0000000C#32 = .ok .primTp
  ∧ (∀ s, s.busy = false → (cmdWrite 0x0000000C s).busy = true ∧ (cmdWrite 0x0000000C s).done = false
      ∧ (cmdWrite 0x0000000C s).err = false)
  ∧ (∀ s, exec .primTp s = .next { s with pout := diffLp (tau s.pin), busy := false, done := true })
  ∧ diffLp (tau 0) = 0x67676767#32 ∧ diffLp (tau 0xFFFFFFFF#32) = 0x65656565#32
  ∧ diffLp (tau 0x01234567#32) = 0xCFC85B85#32

/-- R195: `PRIM_T(x) = PRIM_L(PRIM_S(x))` and `PRIM_TP(x) = PRIM_LP(PRIM_S(x))`, run as commands, the host feeding POUT
back into PIN. -/
def Obligations.PrimTransformsAreCompositions : Prop :=
  ∀ s t u v : State, exec .primS s = .next t →
    (exec .primL { t with pin := t.pout } = .next u → exec .primT s = .next v → v.pout = u.pout)
    ∧ (exec .primLp { t with pin := t.pout } = .next u → exec .primTp s = .next v → v.pout = u.pout)

/-! ## The key schedule -/

/-- R220, R221: for every key and every sequence `rk` with the seed `mk[i] ^ FK[i]` and the recurrence with T' and CK,
the 32 subkeys are `rk[4..35]`, in generation order. -/
def Obligations.KeyScheduleFollowsTheRecurrence : Prop :=
  ∀ (key : Quad) (rk : Nat → Word),
    rk 0 = key.w0 ^^^ 0xA3B1BAC6#32 → rk 1 = key.w1 ^^^ 0x56AA3350#32 → rk 2 = key.w2 ^^^ 0x677D9197#32 →
    rk 3 = key.w3 ^^^ 0xB27022DC#32 →
    (∀ i, i < 32 → rk (i + 4) = rk i ^^^ diffLp (tau (rk (i + 1) ^^^ rk (i + 2) ^^^ rk (i + 3) ^^^ ck i))) →
    ∀ i, i < 32 → rkAt (keySchedule key) i = rk (i + 4)

/-- R222: KEY_EXPAND: its word; BUSY once accepted; in every state it completes with RK the key schedule of KEY and
RK_VALID = 1, changing nothing else but BUSY, DONE and the hidden Xw, RND, FSEL; running it again gives the same RK; a KEY
write afterwards keeps RK and clears RK_VALID; the all-zero key and the example. -/
def Obligations.KeyExpandFillsTheSubkeyFile : Prop :=
  decode 0x00000001#32 = .ok .keyExpand
  ∧ (∀ s, s.busy = false → (cmdWrite 0x00000001 s).busy = true ∧ (cmdWrite 0x00000001 s).done = false
      ∧ (cmdWrite 0x00000001 s).err = false)
  ∧ (∀ s, ∃ t, exec .keyExpand s = .next t
      ∧ t = { s with
        rk := keySchedule s.key, rkValid := true, busy := false, done := true
        xw := t.xw, rnd := t.rnd, fsel := t.fsel })
  ∧ (∀ s t u, exec .keyExpand s = .next t → exec .keyExpand t = .next u → u.rk = t.rk)
  ∧ (∀ s (i : Fin 4) v, s.busy = false →
      (regWrite (0x010 + 4 * i.val) v s).rk = s.rk ∧ (regWrite (0x010 + 4 * i.val) v s).rkValid = false)
  ∧ rkAt (keySchedule ⟨0, 0, 0, 0⟩) 0 = 0x45603B23#32
  ∧ (let rk := keySchedule ⟨0x01234567, 0x89ABCDEF, 0xFEDCBA98, 0x76543210⟩
     rkAt rk 0 = 0xF12186F9#32 ∧ rkAt rk 1 = 0x41662B61#32 ∧ rkAt rk 2 = 0x5A6AB19A#32
     ∧ rkAt rk 3 = 0x7BA92077#32 ∧ rkAt rk 31 = 0x9124A012#32)

/-- R223: the key-expansion datapath, one round per internal step: after `r` rounds RND = r, Xw = rk[r..r+3], FSEL = 1, and
round r's new word is the RK[r] that KEY_EXPAND leaves (RK itself is written at completion, Log 6). -/
def Obligations.KeyDatapathRefinesTheSchedule : Prop :=
  ∀ (s : State) (rk : Nat → Word),
    rk 0 = s.key.w0 ^^^ 0xA3B1BAC6#32 → rk 1 = s.key.w1 ^^^ 0x56AA3350#32 → rk 2 = s.key.w2 ^^^ 0x677D9197#32 →
    rk 3 = s.key.w3 ^^^ 0xB27022DC#32 →
    (∀ i, i < 32 → rk (i + 4) = rk i ^^^ diffLp (tau (rk (i + 1) ^^^ rk (i + 2) ^^^ rk (i + 3) ^^^ ck i))) →
    ∀ r, r ≤ 32 →
      let d := (datapathStep .keyExpand)^[r] (datapathStart .keyExpand s)
      d.rnd.toNat = r ∧ d.xw = ⟨rk r, rk (r + 1), rk (r + 2), rk (r + 3)⟩ ∧ d.fsel = true
      ∧ ∀ t, exec .keyExpand s = .next t → ∀ i, i < r → rkAt t.rk i = rk (i + 4)

/-! ## The block transform -/

/-- R241, R242, R249: for every 16-byte block B, subkeys sk and sequence X with `X[0..3] = words(B)` and
`X[i+4] = X[i] ^ T(X[i+1] ^ X[i+2] ^ X[i+3] ^ sk[i])`, the block transform is the bytes of X[35], X[34], X[33], X[32];
E_fwd and E_rev are it with RK[0], …, RK[31] and with RK[31], …, RK[0]. -/
def Obligations.BlockTransformIsTheRoundIteration : Prop :=
  (∀ (b : List Byte) (sk X : Nat → Word), b.length = 16 →
    (∀ j, j < 4 →
      X j = (b.getD (4 * j) 0) ++ (b.getD (4 * j + 1) 0) ++ (b.getD (4 * j + 2) 0) ++ (b.getD (4 * j + 3) 0)) →
    (∀ i, i < 32 → X (i + 4) = X i ^^^ diffL (tau (X (i + 1) ^^^ X (i + 2) ^^^ X (i + 3) ^^^ sk i))) →
    sm4Block sk b = unbe32 (X 35) ++ unbe32 (X 34) ++ unbe32 (X 33) ++ unbe32 (X 32))
  ∧ ∀ (rk : RkFile) (b : List Byte),
      eFwd rk b = sm4Block (fun i => rkAt rk i) b ∧ eRev rk b = sm4Block (fun i => rkAt rk (31 - i)) b

/-- R245: for every subkey file and every 16-byte block, decryption undoes encryption and encryption undoes decryption;
and as commands: ENC_BLOCK, DOUT copied to DIN, DEC_BLOCK gives back DIN, and the other way round. -/
def Obligations.BlockTransformsAreInverse : Prop :=
  (∀ (rk : RkFile) (m : List Byte), m.length = 16 → eRev rk (eFwd rk m) = m ∧ eFwd rk (eRev rk m) = m)
  ∧ ∀ s : State, s.rkValid = true →
    (∃ t u, exec .encBlock s = .next t ∧ exec .decBlock { t with din := t.dout } = .next u ∧ u.dout = s.din)
    ∧ (∃ t u, exec .decBlock s = .next t ∧ exec .encBlock { t with din := t.dout } = .next u ∧ u.dout = s.din)

/-- R243: ENC_BLOCK: its word; BUSY once accepted; with RK_VALID = 1 it completes with DOUT = E_fwd(DIN), changing nothing
else but BUSY, DONE and the hidden Xw, RND, DIR, FSEL; with RK_VALID = 0 it ends with ERR_NOKEY (2), DOUT unchanged; the example. -/
def Obligations.EncBlockEncryptsDin : Prop :=
  decode 0x00000002#32 = .ok .encBlock
  ∧ (∀ s, s.busy = false → (cmdWrite 0x00000002 s).busy = true ∧ (cmdWrite 0x00000002 s).done = false
      ∧ (cmdWrite 0x00000002 s).err = false)
  ∧ (∀ s, s.rkValid = true → ∃ t, exec .encBlock s = .next t
      ∧ bytesOf t.dout = eFwd s.rk (bytesOf s.din)
      ∧ t = { s with
        dout := t.dout, busy := false, done := true, xw := t.xw, rnd := t.rnd, dir := t.dir, fsel := t.fsel })
  ∧ (∀ s, s.rkValid = false → exec .encBlock s = .next (failedWith 2 s))
  ∧ eFwd (keySchedule ⟨0x01234567, 0x89ABCDEF, 0xFEDCBA98, 0x76543210⟩)
      (bytesOf ⟨0x01234567, 0x89ABCDEF, 0xFEDCBA98, 0x76543210⟩)
    = bytesOf ⟨0x681EDF34, 0xD206965E, 0x86B3E94F, 0x536E4246⟩

/-- R244: DEC_BLOCK, likewise with the reverse subkey order. -/
def Obligations.DecBlockDecryptsDin : Prop :=
  decode 0x00000003#32 = .ok .decBlock
  ∧ (∀ s, s.busy = false → (cmdWrite 0x00000003 s).busy = true ∧ (cmdWrite 0x00000003 s).done = false
      ∧ (cmdWrite 0x00000003 s).err = false)
  ∧ (∀ s, s.rkValid = true → ∃ t, exec .decBlock s = .next t
      ∧ bytesOf t.dout = eRev s.rk (bytesOf s.din)
      ∧ t = { s with
        dout := t.dout, busy := false, done := true, xw := t.xw, rnd := t.rnd, dir := t.dir, fsel := t.fsel })
  ∧ (∀ s, s.rkValid = false → exec .decBlock s = .next (failedWith 2 s))
  ∧ eRev (keySchedule ⟨0x01234567, 0x89ABCDEF, 0xFEDCBA98, 0x76543210⟩)
      (bytesOf ⟨0x01234567, 0x89ABCDEF, 0xFEDCBA98, 0x76543210⟩)
    = bytesOf ⟨0x9338375E, 0x82EEC1CB, 0xBEF65EDF, 0x8757A631⟩
  ∧ eRev (keySchedule ⟨0x01234567, 0x89ABCDEF, 0xFEDCBA98, 0x76543210⟩)
      (bytesOf ⟨0x681EDF34, 0xD206965E, 0x86B3E94F, 0x536E4246⟩)
    = bytesOf ⟨0x01234567, 0x89ABCDEF, 0xFEDCBA98, 0x76543210⟩

/-- R246, R247, R248: the block datapath of ENC_BLOCK and DEC_BLOCK, one round per internal step: after `r` rounds RND = r
and Xw = X[r..r+3] of the iteration with the subkeys read in the MUX's order, RK[r] or RK[31 − r]; after 32 rounds the
window in reverse word order is the DOUT the command leaves. That the internal steps are this datapath is the
model's reading (Log 6). -/
def Obligations.BlockDatapathRefinesTheTransform : Prop :=
  ∀ (s : State) (i : Instr) (X : Nat → Word), (i = .encBlock ∨ i = .decBlock) → s.rkValid = true →
    X 0 = s.din.w0 → X 1 = s.din.w1 → X 2 = s.din.w2 → X 3 = s.din.w3 →
    (∀ r, r < 32 → X (r + 4) = X r ^^^ diffL (tau (X (r + 1) ^^^ X (r + 2) ^^^ X (r + 3)
      ^^^ rkAt s.rk (if i = .decBlock then 31 - r else r)))) →
    (∀ r, r ≤ 32 →
      let d := (datapathStep i)^[r] (datapathStart i s)
      d.rnd.toNat = r ∧ d.xw = ⟨X r, X (r + 1), X (r + 2), X (r + 3)⟩ ∧ d.fsel = false
        ∧ d.dir = decide (i = .decBlock))
    ∧ ∀ t, exec i s = .next t →
      let d := (datapathStep i)^[32] (datapathStart i s)
      t.dout = ⟨d.xw.w3, d.xw.w2, d.xw.w1, d.xw.w0⟩ ∧ t.dout = ⟨X 35, X 34, X 33, X 32⟩

/-! ## The buffer commands -/

/-- R271, R270: ECB_ENC: its word and BUSY; ERR_NOKEY, ERR_RANGE, ERR_OVERLAP in that order, STATUS and OUTLEN alone
changed; otherwise it completes: block k of the destination is E_fwd of block k of the padded source, OUTLEN = LEN + p, and
no other byte and no other register changes but BUSY, DONE and the hidden datapath registers; and the example. Every LEN is
accepted, and in-place operation is. MEM_BYTES is a legal one (R8), so OUTLEN fits its register. -/
def Obligations.EcbEncEncryptsThePaddedSource : Prop :=
  decode 0x00000004#32 = .ok .ecbEnc
  ∧ (∀ s, s.busy = false → (cmdWrite 0x00000004 s).busy = true ∧ (cmdWrite 0x00000004 s).done = false
      ∧ (cmdWrite 0x00000004 s).err = false)
  ∧ (∀ s, s.rkValid = false → exec .ecbEnc s = .next (failedBufferWith 2 s))
  ∧ (∀ s : State, s.rkValid = true →
    let n := s.len.toNat
    let p := 16 - n % 16
    let padded := memRead s s.src.toNat n ++ List.replicate p (BitVec.ofNat 8 p)
    let outside := s.cfg.memBytes < s.src.toNat + n ∨ s.cfg.memBytes < s.dst.toNat + (n + p)
    let overlaps := 0 < n ∧ s.src.toNat ≠ s.dst.toNat
      ∧ s.src.toNat < s.dst.toNat + (n + p) ∧ s.dst.toNat < s.src.toNat + n
    (outside → exec .ecbEnc s = .next (failedBufferWith 4 s))
    ∧ (¬outside → overlaps → exec .ecbEnc s = .next (failedBufferWith 5 s))
    ∧ (s.cfg.wellFormed = true → ¬outside → ¬overlaps → ∃ t, exec .ecbEnc s = .next t
      ∧ (∀ k, k < (n + p) / 16 →
          memRead t (s.dst.toNat + 16 * k) 16 = eFwd s.rk ((padded.drop (16 * k)).take 16))
      ∧ (∀ a, (a < s.dst.toNat ∨ s.dst.toNat + (n + p) ≤ a) → bufByte t a = bufByte s a)
      ∧ t.outlen.toNat = n + p
      ∧ t = { s with
        buf := t.buf, outlen := t.outlen, busy := false, done := true
        xw := t.xw, rnd := t.rnd, dir := t.dir, fsel := t.fsel, bi := t.bi }))
  ∧ eFwd (keySchedule ⟨0x01234567, 0x89ABCDEF, 0xFEDCBA98, 0x76543210⟩)
      (bytesOf ⟨0x01234567, 0x89ABCDEF, 0xFEDCBA98, 0x76543210⟩)
    = bytesOf ⟨0x681EDF34, 0xD206965E, 0x86B3E94F, 0x536E4246⟩
  ∧ eFwd (keySchedule ⟨0x01234567, 0x89ABCDEF, 0xFEDCBA98, 0x76543210⟩) (List.replicate 16 0x10)
    = bytesOf ⟨0x002A8A4E, 0xFA863CCA, 0xD024AC03, 0x00BB40D2⟩

/-- R274, R272, R273, R276: ECB_DEC: its word and BUSY; ERR_NOKEY, ERR_LEN, ERR_RANGE, ERR_OVERLAP in that order, STATUS and
OUTLEN alone changed; otherwise it completes: block k of the destination is E_rev of block k of the source, padding included;
with v the last byte, OUTLEN = LEN − v when v ≤ LEN, whatever the padding bytes are, and ERR_UNPAD (7) with OUTLEN = 0 when
v > LEN; no other byte and no other register changes but BUSY, DONE and the hidden datapath registers; and the example. -/
def Obligations.EcbDecDecryptsAndUnpads : Prop :=
  decode 0x00000005#32 = .ok .ecbDec
  ∧ (∀ s, s.busy = false → (cmdWrite 0x00000005 s).busy = true ∧ (cmdWrite 0x00000005 s).done = false
      ∧ (cmdWrite 0x00000005 s).err = false)
  ∧ (∀ s, s.rkValid = false → exec .ecbDec s = .next (failedBufferWith 2 s))
  ∧ (∀ s : State, s.rkValid = true →
    let n := s.len.toNat
    let badLen := n = 0 ∨ n % 16 ≠ 0
    let outside := s.cfg.memBytes < s.src.toNat + n ∨ s.cfg.memBytes < s.dst.toNat + n
    let overlaps := s.src.toNat ≠ s.dst.toNat ∧ s.src.toNat < s.dst.toNat + n ∧ s.dst.toNat < s.src.toNat + n
    (badLen → exec .ecbDec s = .next (failedBufferWith 3 s))
    ∧ (¬badLen → outside → exec .ecbDec s = .next (failedBufferWith 4 s))
    ∧ (¬badLen → ¬outside → overlaps → exec .ecbDec s = .next (failedBufferWith 5 s))
    ∧ (¬badLen → ¬outside → ¬overlaps → ∃ t, exec .ecbDec s = .next t
      ∧ (∀ k, k < n / 16 →
          memRead t (s.dst.toNat + 16 * k) 16 = eRev s.rk (memRead s (s.src.toNat + 16 * k) 16))
      ∧ (∀ a, (a < s.dst.toNat ∨ s.dst.toNat + n ≤ a) → bufByte t a = bufByte s a)
      ∧ (let v := (bufByte t (s.dst.toNat + n - 1)).toNat
         (v ≤ n → t.outlen.toNat = n - v ∧ t.err = s.err ∧ t.errcode = s.errcode)
         ∧ (n < v → t.outlen = 0 ∧ t.err = true ∧ t.errcode = 7))
      ∧ t = { s with
        buf := t.buf, outlen := t.outlen, err := t.err, errcode := t.errcode, busy := false, done := true
        xw := t.xw, rnd := t.rnd, dir := t.dir, fsel := t.fsel, bi := t.bi }))
  ∧ eRev (keySchedule ⟨0x01234567, 0x89ABCDEF, 0xFEDCBA98, 0x76543210⟩)
      (bytesOf ⟨0x002A8A4E, 0xFA863CCA, 0xD024AC03, 0x00BB40D2⟩) = List.replicate 16 0x10
  ∧ eRev (keySchedule ⟨0x01234567, 0x89ABCDEF, 0xFEDCBA98, 0x76543210⟩)
      (bytesOf ⟨0x681EDF34, 0xD206965E, 0x86B3E94F, 0x536E4246⟩)
    = bytesOf ⟨0x01234567, 0x89ABCDEF, 0xFEDCBA98, 0x76543210⟩

/-- R301, R300, R302, R303: CTR_XFORM: its word and BUSY; ERR_NOKEY, ERR_RANGE, ERR_OVERLAP in that order, and ERR_CTR_OVF
when the last block's counter exceeds 2^128 − 1 under FAULT, STATUS and OUTLEN alone changed; otherwise, and past the last
counter under WRAP, it completes: byte k of the destination is byte k of the source XORed with byte k mod 16 of the encryption
of the counter C0 + k div 16 (mod 2^128), and OUTLEN = LEN; CTR, every other byte and every other register are unchanged but
BUSY, DONE and the hidden datapath registers; and the example. -/
def Obligations.CtrXformXorsTheKeystream : Prop :=
  decode 0x00000006#32 = .ok .ctrXform
  ∧ (∀ s, s.busy = false → (cmdWrite 0x00000006 s).busy = true ∧ (cmdWrite 0x00000006 s).done = false
      ∧ (cmdWrite 0x00000006 s).err = false)
  ∧ (∀ s, s.rkValid = false → exec .ctrXform s = .next (failedBufferWith 2 s))
  ∧ (∀ s : State, s.rkValid = true →
    let n := s.len.toNat
    let c0 := s.ctr.w0.toNat * 2 ^ 96 + s.ctr.w1.toNat * 2 ^ 64 + s.ctr.w2.toNat * 2 ^ 32 + s.ctr.w3.toNat
    let outside := s.cfg.memBytes < s.src.toNat + n ∨ s.cfg.memBytes < s.dst.toNat + n
    let overlaps := 0 < n ∧ s.src.toNat ≠ s.dst.toNat
      ∧ s.src.toNat < s.dst.toNat + n ∧ s.dst.toNat < s.src.toNat + n
    let overflows := 0 < n ∧ 2 ^ 128 - 1 < c0 + (n + 15) / 16 - 1
    (outside → exec .ctrXform s = .next (failedBufferWith 4 s))
    ∧ (¬outside → overlaps → exec .ctrXform s = .next (failedBufferWith 5 s))
    ∧ (¬outside → ¬overlaps → overflows → s.cfg.ctrOvfPolicy = .fault →
        exec .ctrXform s = .next (failedBufferWith 6 s))
    ∧ (¬outside → ¬overlaps → (overflows → s.cfg.ctrOvfPolicy = .wrap) → ∃ t, exec .ctrXform s = .next t
      ∧ (∀ k, k < n →
          bufByte t (s.dst.toNat + k) = bufByte s (s.src.toNat + k)
            ^^^ (eFwd s.rk (unbe128 (BitVec.ofNat 128 (c0 + k / 16)))).getD (k % 16) 0)
      ∧ (∀ a, (a < s.dst.toNat ∨ s.dst.toNat + n ≤ a) → bufByte t a = bufByte s a)
      ∧ t = { s with
        buf := t.buf, outlen := s.len, busy := false, done := true
        xw := t.xw, rnd := t.rnd, dir := t.dir, fsel := t.fsel, bi := t.bi, cw := t.cw }))
  ∧ eFwd (keySchedule ⟨0x01234567, 0x89ABCDEF, 0xFEDCBA98, 0x76543210⟩) (unbe128 0)
    = bytesOf ⟨0x2677F46B, 0x09C122CC, 0x97553310, 0x5BD4A22A⟩

/-- R275: ECB_ENC of any source, then ECB_DEC of its output, both passing their checks: the second completes without error,
OUTLEN is the source's length and the first LEN destination bytes are the source. -/
def Obligations.EcbRoundTrip : Prop :=
  ∀ (s t : State) (d : Word), s.cfg.wellFormed = true → earlyError .ecbEnc s = none → exec .ecbEnc s = .next t →
    let r : State := { t with src := t.dst, dst := d, len := t.outlen }
    earlyError .ecbDec r = none →
    ∃ u, exec .ecbDec r = .next u ∧ u.err = s.err ∧ u.outlen = s.len
      ∧ memRead u d.toNat s.len.toNat = memRead s s.src.toNat s.len.toNat

/-- R304: CTR_XFORM twice with the same RK and CTR, the second on the first one's output, restores the source, of any
length, when no error occurs. -/
def Obligations.CtrXformIsSelfInverse : Prop :=
  ∀ (s t : State) (d : Word), earlyError .ctrXform s = none → exec .ctrXform s = .next t →
    let r : State := { t with src := t.dst, dst := d }
    earlyError .ctrXform r = none →
    ∃ u, exec .ctrXform r = .next u ∧ u.err = s.err
      ∧ memRead u d.toNat s.len.toNat = memRead s s.src.toNat s.len.toNat

/-! ## Errors -/

/-- R151: the five commands that need subkeys end with ERR_NOKEY (2) when RK_VALID = 0, whatever else is wrong;
KEY_EXPAND and the PRIM commands do not make the check. -/
def Obligations.SubkeysAreRequired : Prop :=
  ∀ s : State, s.rkValid = false →
    exec .encBlock s = .next (failedWith 2 s) ∧ exec .decBlock s = .next (failedWith 2 s)
    ∧ exec .ecbEnc s = .next (failedBufferWith 2 s) ∧ exec .ecbDec s = .next (failedBufferWith 2 s)
    ∧ exec .ctrXform s = .next (failedBufferWith 2 s)
    ∧ ∀ i ∈ [Instr.keyExpand, .primS, .primL, .primLp, .primT, .primTp],
        ∃ t, exec i s = .next t ∧ t.err = s.err ∧ t.errcode = s.errcode ∧ t.done = true

/-- R342: from a state without a recorded error, a command reports exactly the first error that applies, in the order NOKEY,
LEN, RANGE, OVERLAP, CTR_OVF, UNPAD, and none when none applies; an illegal word is rejected at acceptance, before any of
them. -/
def Obligations.FirstErrorInPriorityOrderIsReported : Prop :=
  (∀ (i : Instr) (s t : State), s.err = false → s.errcode = 0 → exec i s = .next t →
    let buffer := i ∈ [Instr.ecbEnc, .ecbDec, .ctrXform]
    let n := s.len.toNat
    let m := if i = .ecbEnc then n + (16 - n % 16) else n
    let lastBlock := eRev s.rk (memRead s (s.src.toNat + n - 16) 16)
    let applies (code : Nat) : Prop :=
      match code with
      | 2 => (buffer ∨ i = .encBlock ∨ i = .decBlock) ∧ s.rkValid = false
      | 3 => i = .ecbDec ∧ (n = 0 ∨ n % 16 ≠ 0)
      | 4 => buffer ∧ (s.cfg.memBytes < s.src.toNat + n ∨ s.cfg.memBytes < s.dst.toNat + m)
      | 5 => buffer ∧ 0 < n ∧ 0 < m ∧ s.src.toNat ≠ s.dst.toNat
          ∧ s.src.toNat < s.dst.toNat + m ∧ s.dst.toNat < s.src.toNat + n
      | 6 => i = .ctrXform ∧ 0 < n ∧ s.cfg.ctrOvfPolicy = .fault
          ∧ 2 ^ 128 - 1 < (valueOf s.ctr).toNat + (n + 15) / 16 - 1
      | 7 => i = .ecbDec ∧ n < (lastBlock.getD 15 0).toNat
      | _ => False
    (∀ code, applies code → (∀ c, c < code → ¬applies c) → t.err = true ∧ t.errcode.toNat = code)
    ∧ ((∀ code, ¬applies code) → t.err = false ∧ t.errcode = 0))
  ∧ ∀ (w : Word) (s : State), s.busy = false → (∃ e, decode w = .error e) →
      (cmdWrite w s).busy = false ∧ (cmdWrite w s).errcode = 1

/-- R344, R343, R150: after a command that ends with an error other than ERR_UNPAD, only STATUS and, for a buffer command,
OUTLEN (now 0) differ; after ERR_UNPAD also the LEN destination bytes and the hidden datapath registers. -/
def Obligations.FailedCommandsChangeOnlyTheRecord : Prop :=
  ∀ (i : Instr) (s t : State), s.err = false → exec i s = .next t → t.err = true →
    (t.errcode ≠ 7 →
      t = if i ∈ [Instr.ecbEnc, .ecbDec, .ctrXform] then failedBufferWith t.errcode s else failedWith t.errcode s)
    ∧ (t.errcode = 7 → i = .ecbDec
      ∧ t = { failedBufferWith 7 s with
        buf := t.buf, xw := t.xw, rnd := t.rnd, dir := t.dir, fsel := t.fsel, bi := t.bi }
      ∧ ∀ a, ¬(s.dst.toNat ≤ a ∧ a < s.dst.toNat + s.len.toNat) → bufByte t a = bufByte s a)

/-- R341: which commands can raise which error, from a state without a recorded error; and an illegal CMD word raises
ERR_OPCODE (1). -/
def Obligations.ErrorsOfEachCommand : Prop :=
  (∀ (i : Instr) (s t : State), s.err = false → exec i s = .next t → t.err = true →
    match i with
    | .keyExpand | .primS | .primL | .primLp | .primT | .primTp => False
    | .encBlock | .decBlock => t.errcode = 2
    | .ecbEnc => t.errcode ∈ [2#4, 4#4, 5#4]
    | .ecbDec => t.errcode ∈ [2#4, 3#4, 4#4, 5#4, 7#4]
    | .ctrXform => t.errcode ∈ [2#4, 4#4, 5#4, 6#4])
  ∧ ∀ (w : Word) (s : State), s.busy = false → (∃ e, decode w = .error e) →
      (cmdWrite w s).err = true ∧ (cmdWrite w s).errcode = 1

/-- R149, R150, R343: every command, in every state, completes: BUSY = 0, DONE = 1, and no operand register, parameter or
interface field changes. -/
def Obligations.EveryCommandCompletesAndKeepsItsOperands : Prop :=
  ∀ (i : Instr) (s : State), ∃ t, exec i s = .next t ∧ t.busy = false ∧ t.done = true ∧ OperandsKept s t

/-- R88: no command writes a BUF byte outside its destination region (a command without regions writes none), and no command
reads one outside its source region: with other bytes there, the command answers the same state but for BUF, and, when no
early error stops it, the same destination bytes. -/
def Obligations.CommandsTouchOnlyTheirRegions : Prop :=
  ∀ (i : Instr) (s t : State), exec i s = .next t →
    (∀ a, ¬(isBuffer i = true ∧ s.dst.toNat ≤ a ∧ a < s.dst.toNat + outMax i s) → bufByte t a = bufByte s a)
    ∧ ∀ m : Memory,
        (∀ a, isBuffer i = true → s.src.toNat ≤ a → a < s.src.toNat + s.len.toNat →
          bufByte { s with buf := m } a = bufByte s a) →
        ∃ t', exec i { s with buf := m } = .next t' ∧ t' = { t with buf := t'.buf }
          ∧ (earlyError i s = none → ∀ a, isBuffer i = true → s.dst.toNat ≤ a → a < s.dst.toNat + outMax i s →
              bufByte t' a = bufByte t a)

/-! ## The command interface -/

/-- R147: acceptance while idle: a legal word latches OPC and sets BUSY, an illegal word completes at once with ERR_OPCODE;
DONE, ERR and ERRCODE are cleared first, OVR is kept, and nothing else changes but the hidden datapath registers of a legal
word (the start of the datapath, Log 6). -/
def Obligations.AcceptanceOfACommandWord : Prop :=
  ∀ (s : State) (w : Word), s.busy = false →
    (∀ e, decode w = .error e → cmdWrite w s = { s with done := true, err := true, errcode := 1 })
    ∧ (∀ i, decode w = .ok i → ∃ t, cmdWrite w s = t ∧ t = { s with
        done := false, err := false, errcode := 0, opc := w.extractLsb' 0 4, busy := true
        xw := t.xw, rnd := t.rnd, dir := t.dir, fsel := t.fsel, bi := t.bi, cw := t.cw })

/-- R148: a CMD write while BUSY = 1 only sets OVR, whatever the word is. -/
def Obligations.CommandWriteWhileBusyOnlySetsOvr : Prop :=
  ∀ (s : State) (w : Word) (rest : List Event), s.rstAsserted = false → s.busy = true →
    s.agenda = .host (.regWrite 32 (s.cfg.regBase + 0x004) w) :: rest →
    step s = .next { s with ovr := true, agenda := rest }

/-- R33, R347: OVR is cleared only by a STATUS write with bit 4 = 1, a soft reset or a hardware reset; in every other step
it stays set. -/
def Obligations.OvrStaysUntilClearedOrReset : Prop :=
  ∀ s t : State, s.ovr = true → step s = .next t → t.ovr = false →
    (∃ rest v, s.agenda = .host (.regWrite 32 (s.cfg.regBase + 0x008) v) :: rest ∧ v.getLsbD 4 = true)
    ∨ (∃ rest v, s.agenda = .host (.regWrite 32 (s.cfg.regBase + 0x00C) v) :: rest ∧ v.getLsbD 1 = true)
    ∨ (∃ rest powerOn, s.agenda = .resetAssert powerOn :: rest)

/-- R141: the value of a register read at every legal offset; a result register read while BUSY = 1 gives a free word, drawn
afresh; nothing of the engine changes. -/
def Obligations.RegisterReadMap : Prop :=
  ∀ (s : State) (off : Nat) (rest : List Event), s.rstAsserted = false → off % 4 = 0 → off < 0x100 →
    s.agenda = .host (.regRead 32 (s.cfg.regBase + off)) :: rest →
    ∃ v d, step s = .next { s with agenda := rest, responses := .reg off v :: s.responses, draws := d }
      ∧ (off = 0x000 → v = 0x534D3401#32) ∧ (off = 0x004 → v = 0)
      ∧ (off = 0x008 → v.getLsbD 0 = s.busy ∧ v.getLsbD 1 = s.done ∧ v.getLsbD 2 = s.err ∧ v.getLsbD 3 = s.rkValid
          ∧ v.getLsbD 4 = s.ovr ∧ v.extractLsb' 5 3 = 0#3 ∧ v.extractLsb' 8 4 = s.errcode ∧ v.extractLsb' 12 20 = 0#20)
      ∧ (off = 0x00C → v.getLsbD 0 = s.ie ∧ v.extractLsb' 1 31 = 0#31)
      ∧ (0x010 ≤ off ∧ off < 0x020 → v = 0)
      ∧ (∀ i : Fin 4, off = 0x020 + 4 * i.val → v = s.din.get i)
      ∧ (∀ i : Fin 4, off = 0x030 + 4 * i.val → v = if s.busy then Config.draw32 s.draws else s.dout.get i)
      ∧ (∀ i : Fin 4, off = 0x040 + 4 * i.val → v = s.ctr.get i)
      ∧ (off = 0x050 → v = s.src) ∧ (off = 0x054 → v = s.dst) ∧ (off = 0x058 → v = s.len)
      ∧ (off = 0x05C → v = if s.busy then Config.draw32 s.draws else s.outlen)
      ∧ (off = 0x060 → v = s.pin)
      ∧ (off = 0x064 → v = if s.busy then Config.draw32 s.draws else s.pout)
      ∧ (0x068 ≤ off ∧ off < 0x080 → v = 0)
      ∧ (∀ i, i < 32 → off = 0x080 + 4 * i → v = if s.busy then Config.draw32 s.draws else rkAt s.rk i)
      ∧ d = (if s.busy = true ∧ ((0x030 ≤ off ∧ off < 0x040) ∨ off = 0x05C ∨ off = 0x064 ∨ 0x080 ≤ off)
             then s.draws + 1 else s.draws)

/-- R142: the effect of a register write at every legal offset. A KEY write while idle stores the value and clears RK_VALID;
an operand write while idle stores the value; while BUSY = 1 both are dropped; read-only and reserved offsets ignore the
write. CMD, STATUS and CTRL go to CmdWrite, StatusWrite and SoftReset or IE. -/
def Obligations.RegisterWriteMap : Prop :=
  ∀ (s : State) (off : Nat) (v : Word) (rest : List Event), s.rstAsserted = false → off % 4 = 0 → off < 0x100 →
    s.agenda = .host (.regWrite 32 (s.cfg.regBase + off) v) :: rest →
    let a : State := { s with agenda := rest }
    let operand (written : State) : State := if s.busy then a else written
    ∃ t, step s = .next t
      ∧ (off = 0x004 → t = cmdWrite v a) ∧ (off = 0x008 → t = statusWrite v a)
      ∧ (off = 0x00C → t = if v.getLsbD 1 then softReset a else { a with ie := v.getLsbD 0 })
      ∧ (∀ i : Fin 4, off = 0x010 + 4 * i.val → t = operand { a with key := s.key.set i v, rkValid := false })
      ∧ (∀ i : Fin 4, off = 0x020 + 4 * i.val → t = operand { a with din := s.din.set i v })
      ∧ (∀ i : Fin 4, off = 0x040 + 4 * i.val → t = operand { a with ctr := s.ctr.set i v })
      ∧ (off = 0x050 → t = operand { a with src := v }) ∧ (off = 0x054 → t = operand { a with dst := v })
      ∧ (off = 0x058 → t = operand { a with len := v }) ∧ (off = 0x060 → t = operand { a with pin := v })
      ∧ (off = 0x000 ∨ (0x030 ≤ off ∧ off < 0x040) ∨ off = 0x05C ∨ 0x064 ≤ off → t = a)

/-- R143: a register access that is not 32 bits wide, is misaligned or falls outside the window is the host's fault
HostBusError, for reads and writes alike. -/
def Obligations.IllegalAccessIsABusError : Prop :=
  ∀ (s : State) (size addr : Nat) (v : Word) (rest : List Event), s.rstAsserted = false →
    (size ≠ 32 ∨ addr < s.cfg.regBase ∨ s.cfg.regBase + 0x100 ≤ addr ∨ (addr - s.cfg.regBase) % 4 ≠ 0) →
    (s.agenda = .host (.regRead size addr) :: rest ∨ s.agenda = .host (.regWrite size addr v) :: rest) →
    step s = .fault (.hostBusError ((addr : Int) - (s.cfg.regBase : Int)))

/-- R144: the write-1-to-clear bits of STATUS, whether BUSY is 0 or 1. -/
def Obligations.StatusWriteClears : Prop :=
  ∀ (s : State) (v : Word),
    statusWrite v s = { s with
      done := s.done && !v.getLsbD 1
      err := s.err && !v.getLsbD 2
      errcode := if v.getLsbD 2 = true then 0 else s.errcode
      ovr := s.ovr && !v.getLsbD 4 }

/-- R145: while BUSY = 1 a host write to KEY, DIN, CTR, SRC, DST, LEN or PIN is dropped: the step changes nothing but the
agenda; writes to STATUS and CTRL still act; so, whatever the step, every operand register keeps its value until a reset. -/
def Obligations.OperandsAreProtectedWhileBusy : Prop :=
  ∀ s : State, s.busy = true →
    (∀ (off : Nat) (v : Word) (rest : List Event), s.rstAsserted = false → off % 4 = 0 →
      ((0x010 ≤ off ∧ off < 0x030) ∨ (0x040 ≤ off ∧ off ≤ 0x058) ∨ off = 0x060) →
      s.agenda = .host (.regWrite 32 (s.cfg.regBase + off) v) :: rest →
      step s = .next { s with agenda := rest })
    ∧ (∀ (v : Word) (rest : List Event), s.rstAsserted = false →
      (s.agenda = .host (.regWrite 32 (s.cfg.regBase + 0x008) v) :: rest →
        step s = .next (statusWrite v { s with agenda := rest }))
      ∧ (s.agenda = .host (.regWrite 32 (s.cfg.regBase + 0x00C) v) :: rest →
        step s = .next (if v.getLsbD 1 then softReset { s with agenda := rest }
          else { s with agenda := rest, ie := v.getLsbD 0 })))
    ∧ ∀ t, step s = .next t → HasResetValues t
      ∨ (t.key = s.key ∧ t.din = s.din ∧ t.ctr = s.ctr ∧ t.src = s.src ∧ t.dst = s.dst ∧ t.len = s.len ∧ t.pin = s.pin)

/-- R89: while BUSY = 0, a host read of a BUF byte returns it and a host write sets it and no other. (Where an address
outside BUF stops the model is said by StepStopsOnlyOutsideTheContract; Log 5.) -/
def Obligations.BufAccessWhileIdle : Prop :=
  ∀ (s : State) (a : Nat) (b : Byte) (rest : List Event), s.rstAsserted = false → s.busy = false →
    a < s.cfg.memBytes →
    (s.agenda = .host (.bufRead a) :: rest →
      step s = .next { s with agenda := rest, responses := .buf a (bufByte s a) :: s.responses })
    ∧ (s.agenda = .host (.bufWrite a b) :: rest →
      ∃ t, step s = .next t ∧ t = { s with agenda := rest, buf := t.buf }
        ∧ bufByte t a = b ∧ ∀ x, x ≠ a → bufByte t x = bufByte s x)

/-- R90: while a buffer command is busy, a host read of a destination byte returns a free byte and any other read the byte;
a host write outside both regions sets the byte, and a write into either region is refused; while another command is busy,
reads and writes are exact. -/
def Obligations.BufAccessWhileBusy : Prop :=
  ∀ (s : State) (i : Instr) (a : Nat) (b : Byte) (rest : List Event), s.rstAsserted = false → s.busy = true →
    latched s = .ok i → a < s.cfg.memBytes →
    let buffer := i ∈ [Instr.ecbEnc, .ecbDec, .ctrXform]
    let m := if i = .ecbEnc then s.len.toNat + (16 - s.len.toNat % 16) else s.len.toNat
    let destination := buffer ∧ s.dst.toNat ≤ a ∧ a < s.dst.toNat + m
    let source := buffer ∧ s.src.toNat ≤ a ∧ a < s.src.toNat + s.len.toNat
    (s.agenda = .host (.bufRead a) :: rest →
      (destination → step s = .next { s with
        agenda := rest, responses := .buf a (Config.drawByte s.draws) :: s.responses, draws := s.draws + 1 })
      ∧ (¬destination → step s = .next { s with
        agenda := rest, responses := .buf a (bufByte s a) :: s.responses }))
    ∧ (s.agenda = .host (.bufWrite a b) :: rest →
      (¬destination → ¬source → ∃ t, step s = .next t ∧ t = { s with agenda := rest, buf := t.buf }
        ∧ bufByte t a = b ∧ ∀ x, x ≠ a → bufByte t x = bufByte s x)
      ∧ (destination ∨ source → step s = .refused (.hostWriteIntoBusyRegion a)))

/-- R350, R351: irq = IE and DONE; it falls on a STATUS write that clears DONE, on the acceptance of a legal command, on
IE = 0 and on a reset, and rises at once when IE is set while DONE = 1. -/
def Obligations.InterruptFollowsEnableAndDone : Prop :=
  ∀ s : State, irq s = (s.ie && s.done)
    ∧ (∀ v : Word, v.getLsbD 1 = true → irq (statusWrite v s) = false)
    ∧ (∀ (w : Word) (i : Instr), s.busy = false → decode w = .ok i → irq (cmdWrite w s) = false)
    ∧ (∀ v : Word, v.getLsbD 0 = false → irq (ctrlWrite v s) = false)
    ∧ (∀ v : Word, v.getLsbD 1 = false → v.getLsbD 0 = true → s.done = true → irq (ctrlWrite v s) = true)
    ∧ irq (softReset s) = false ∧ (∀ powerOn, irq (hardwareReset powerOn s) = false)

/-- R358: an idle engine holds all state: with no event to come a step changes nothing (the model's choice, Log 2), and an
engine step changes nothing but the agenda. -/
def Obligations.IdleHoldsAllState : Prop :=
  ∀ s : State, s.busy = false →
    (s.agenda = [] → step s = .next s)
    ∧ ∀ (e : Event) (rest : List Event), e = .engineStep ∨ e = .engineLast → s.agenda = e :: rest →
        step s = .next { s with agenda := rest }

/-! ## The whole machine -/

/-- Every step from a state with the engine's invariant leads to a state with it (R33: "DONE = 0 and ERR = 0 whenever
BUSY = 1", "ERRCODE = 0 exactly when ERR = 0"; R340; R51; R53; R36, R151, R224; R57; R43; R380). -/
def Obligations.StepKeepsTheEngineInvariant : Prop :=
  ∀ s t : State, EngineInv s → step s = .next t → EngineInv t

/-- Every step keeps the datapath invariant (R50, R52, R53, R55, R223, R246), whatever the host does meanwhile. -/
def Obligations.StepKeepsTheDatapathInvariant : Prop :=
  ∀ s t : State, DatapathInv s → step s = .next t → DatapathInv t

/-- The reset state has both invariants. Its values are those of R59 and R380, but that its parameters are legal (R8) rests on
the values the model chose for them (Log 1). -/
def Obligations.ResetHasTheInvariants : Prop :=
  EngineInv State.reset ∧ DatapathInv State.reset

/-- R149: the number of engine steps before the last changes no result: n internal steps and then the last one leave the
state of `exec` alone, for every n. That the hidden datapath registers agree too is the model's reading (Log 6). -/
def Obligations.ResultIsIndependentOfLatency : Prop :=
  ∀ (s : State) (i : Instr) (n : Nat) (rest : List Event), s.busy = true → latched s = .ok i →
    s.agenda = List.replicate n .engineStep ++ .engineLast :: rest →
    core.run (n + 1) s = exec i { s with agenda := rest }

/-- From a state with the invariant, a step answers a next state exactly when the next event is allowed. The spec gives two
of the stops: the illegal register access (R143) and the write into a region of a running buffer command (R90). The other two
are the model's choice for what the spec leaves to the platform: a BUF address at or above MEM_BYTES stops (R89, Log 5), and so
does a host operation while the reset input is asserted (R382, Log 2). -/
def Obligations.StepStopsOnlyOutsideTheContract : Prop :=
  ∀ s : State, EngineInv s → ((∃ t, step s = .next t) ↔ Safe s)

/-- R33, R147, R149, R152: BUSY falls only by the completion of the latched command or by a reset. -/
def Obligations.BusyEndsOnlyByCompletionOrReset : Prop :=
  ∀ s t : State, s.busy = true → step s = .next t → t.busy = false →
    (∃ i, latched s = .ok i ∧ exec i (takeEvent s) = .next t ∧ t.done = true) ∨ HasResetValues t

/-- R46, R224, R33: RK changes only when KEY_EXPAND completes or by a reset; RK_VALID rises only when KEY_EXPAND completes.
That it completes is said in full: it is the latched command, the step is its `exec`, and after it BUSY = 0, DONE = 1 and RK
is the key schedule of KEY. -/
def Obligations.OnlyKeyExpandWritesTheSubkeys : Prop :=
  ∀ s t : State, step s = .next t →
    let keyExpandCompletes := s.busy = true ∧ latched s = .ok .keyExpand ∧ exec .keyExpand (takeEvent s) = .next t
      ∧ t.busy = false ∧ t.done = true ∧ t.rk = keySchedule s.key
    (t.rk = s.rk ∨ HasResetValues t ∨ keyExpandCompletes)
    ∧ (s.rkValid = false → t.rkValid = true → keyExpandCompletes)

/-- R38, R43, R45: whatever the step, each result register changes only when one of its own commands completes, or by a
reset: DOUT by ENC_BLOCK and DEC_BLOCK, OUTLEN by the buffer commands, POUT by the PRIM commands; and no host write changes
one. -/
def Obligations.ResultRegistersChangeOnlyByTheirCommands : Prop :=
  ∀ s t : State, step s = .next t → HasResetValues t ∨
    ((t.dout = s.dout ∨ (s.busy = true ∧ t.done = true ∧ (latched s = .ok .encBlock ∨ latched s = .ok .decBlock)))
    ∧ (t.outlen = s.outlen ∨ (s.busy = true ∧ t.done = true
        ∧ (latched s = .ok .ecbEnc ∨ latched s = .ok .ecbDec ∨ latched s = .ok .ctrXform)))
    ∧ (t.pout = s.pout ∨ (s.busy = true ∧ t.done = true
        ∧ ∃ i ∈ [Instr.primS, .primL, .primLp, .primT, .primTp], latched s = .ok i)))

/-- R36, R353, R56: KEY influences nothing but KEY and the hidden Xw until a KEY_EXPAND completes: two states that differ in
KEY and Xw alone take steps to states that differ in KEY and Xw alone, so the host sees the same data, STATUS and BUF. -/
def Obligations.KeyInfluencesNothingUntilExpanded : Prop :=
  ∀ (s t : State) (k x : Quad), step s = .next t →
    ¬(s.busy = true ∧ latched s = .ok .keyExpand ∧ nextEvent s = some .engineLast) →
    ∃ k' x', step { s with key := k, xw := x } = .next { t with key := k', xw := x' }

/-- R8: no step changes a parameter; and no result depends on N_LANES (R9, R277, R305, R356). -/
def Obligations.ParametersAreFixedAndLanesUnobservable : Prop :=
  (∀ s t : State, step s = .next t → t.cfg = s.cfg)
  ∧ ∀ (i : Instr) (s t : State) (n : Nat), exec i s = .next t →
      exec i { s with cfg := { s.cfg with nLanes := n } } = .next { t with cfg := { s.cfg with nLanes := n } }
end

