-- ==== Sys2Proof/Laws/State.lean ====
section
/-! SUPPORT. One lemma per field for each named update of a state, true by `rfl`, so that no later proof unfolds a record
update. -/

namespace Sys2Proof.Machine

open Sys2Proof

/-! ## `complete()` (R150) -/

section
variable (s : State)

@[simp] theorem complete_cfg : (complete s).cfg = s.cfg := rfl
@[simp] theorem complete_busy : (complete s).busy = false := rfl
@[simp] theorem complete_done : (complete s).done = true := rfl
@[simp] theorem complete_err : (complete s).err = s.err := rfl
@[simp] theorem complete_rkValid : (complete s).rkValid = s.rkValid := rfl
@[simp] theorem complete_ovr : (complete s).ovr = s.ovr := rfl
@[simp] theorem complete_errcode : (complete s).errcode = s.errcode := rfl
@[simp] theorem complete_ie : (complete s).ie = s.ie := rfl
@[simp] theorem complete_key : (complete s).key = s.key := rfl
@[simp] theorem complete_din : (complete s).din = s.din := rfl
@[simp] theorem complete_dout : (complete s).dout = s.dout := rfl
@[simp] theorem complete_ctr : (complete s).ctr = s.ctr := rfl
@[simp] theorem complete_src : (complete s).src = s.src := rfl
@[simp] theorem complete_dst : (complete s).dst = s.dst := rfl
@[simp] theorem complete_len : (complete s).len = s.len := rfl
@[simp] theorem complete_outlen : (complete s).outlen = s.outlen := rfl
@[simp] theorem complete_pin : (complete s).pin = s.pin := rfl
@[simp] theorem complete_pout : (complete s).pout = s.pout := rfl
@[simp] theorem complete_rk : (complete s).rk = s.rk := rfl
@[simp] theorem complete_xw : (complete s).xw = s.xw := rfl
@[simp] theorem complete_rnd : (complete s).rnd = s.rnd := rfl
@[simp] theorem complete_dir : (complete s).dir = s.dir := rfl
@[simp] theorem complete_fsel : (complete s).fsel = s.fsel := rfl
@[simp] theorem complete_opc : (complete s).opc = s.opc := rfl
@[simp] theorem complete_bi : (complete s).bi = s.bi := rfl
@[simp] theorem complete_cw : (complete s).cw = s.cw := rfl
@[simp] theorem complete_buf : (complete s).buf = s.buf := rfl
@[simp] theorem complete_launch : (complete s).launch = s.launch := rfl
@[simp] theorem complete_draws : (complete s).draws = s.draws := rfl
@[simp] theorem complete_rstAsserted : (complete s).rstAsserted = s.rstAsserted := rfl
@[simp] theorem complete_agenda : (complete s).agenda = s.agenda := rfl
@[simp] theorem complete_responses : (complete s).responses = s.responses := rfl

end

/-! ## `raise EngineError(c)` (R150, R343) -/

section
variable (i : Instr) (c : ErrorCode) (s : State)

@[simp] theorem raiseError_cfg : (raiseError i c s).cfg = s.cfg := rfl
@[simp] theorem raiseError_busy : (raiseError i c s).busy = false := rfl
@[simp] theorem raiseError_done : (raiseError i c s).done = true := rfl
@[simp] theorem raiseError_err : (raiseError i c s).err = true := rfl
@[simp] theorem raiseError_rkValid : (raiseError i c s).rkValid = s.rkValid := rfl
@[simp] theorem raiseError_ovr : (raiseError i c s).ovr = s.ovr := rfl
@[simp] theorem raiseError_errcode : (raiseError i c s).errcode = c.code := rfl
@[simp] theorem raiseError_ie : (raiseError i c s).ie = s.ie := rfl
@[simp] theorem raiseError_key : (raiseError i c s).key = s.key := rfl
@[simp] theorem raiseError_din : (raiseError i c s).din = s.din := rfl
@[simp] theorem raiseError_dout : (raiseError i c s).dout = s.dout := rfl
@[simp] theorem raiseError_ctr : (raiseError i c s).ctr = s.ctr := rfl
@[simp] theorem raiseError_src : (raiseError i c s).src = s.src := rfl
@[simp] theorem raiseError_dst : (raiseError i c s).dst = s.dst := rfl
@[simp] theorem raiseError_len : (raiseError i c s).len = s.len := rfl
@[simp] theorem raiseError_outlen : (raiseError i c s).outlen = if isBuffer i then 0 else s.outlen := rfl
@[simp] theorem raiseError_pin : (raiseError i c s).pin = s.pin := rfl
@[simp] theorem raiseError_pout : (raiseError i c s).pout = s.pout := rfl
@[simp] theorem raiseError_rk : (raiseError i c s).rk = s.rk := rfl
@[simp] theorem raiseError_xw : (raiseError i c s).xw = s.xw := rfl
@[simp] theorem raiseError_rnd : (raiseError i c s).rnd = s.rnd := rfl
@[simp] theorem raiseError_dir : (raiseError i c s).dir = s.dir := rfl
@[simp] theorem raiseError_fsel : (raiseError i c s).fsel = s.fsel := rfl
@[simp] theorem raiseError_opc : (raiseError i c s).opc = s.opc := rfl
@[simp] theorem raiseError_bi : (raiseError i c s).bi = s.bi := rfl
@[simp] theorem raiseError_cw : (raiseError i c s).cw = s.cw := rfl
@[simp] theorem raiseError_buf : (raiseError i c s).buf = s.buf := rfl
@[simp] theorem raiseError_launch : (raiseError i c s).launch = s.launch := rfl
@[simp] theorem raiseError_draws : (raiseError i c s).draws = s.draws := rfl
@[simp] theorem raiseError_rstAsserted : (raiseError i c s).rstAsserted = s.rstAsserted := rfl
@[simp] theorem raiseError_agenda : (raiseError i c s).agenda = s.agenda := rfl
@[simp] theorem raiseError_responses : (raiseError i c s).responses = s.responses := rfl

end

/-! ## taking the next event off the agenda (Log 2) -/

section
variable (s : State)

@[simp] theorem takeEvent_cfg : (takeEvent s).cfg = s.cfg := rfl
@[simp] theorem takeEvent_busy : (takeEvent s).busy = s.busy := rfl
@[simp] theorem takeEvent_done : (takeEvent s).done = s.done := rfl
@[simp] theorem takeEvent_err : (takeEvent s).err = s.err := rfl
@[simp] theorem takeEvent_rkValid : (takeEvent s).rkValid = s.rkValid := rfl
@[simp] theorem takeEvent_ovr : (takeEvent s).ovr = s.ovr := rfl
@[simp] theorem takeEvent_errcode : (takeEvent s).errcode = s.errcode := rfl
@[simp] theorem takeEvent_ie : (takeEvent s).ie = s.ie := rfl
@[simp] theorem takeEvent_key : (takeEvent s).key = s.key := rfl
@[simp] theorem takeEvent_din : (takeEvent s).din = s.din := rfl
@[simp] theorem takeEvent_dout : (takeEvent s).dout = s.dout := rfl
@[simp] theorem takeEvent_ctr : (takeEvent s).ctr = s.ctr := rfl
@[simp] theorem takeEvent_src : (takeEvent s).src = s.src := rfl
@[simp] theorem takeEvent_dst : (takeEvent s).dst = s.dst := rfl
@[simp] theorem takeEvent_len : (takeEvent s).len = s.len := rfl
@[simp] theorem takeEvent_outlen : (takeEvent s).outlen = s.outlen := rfl
@[simp] theorem takeEvent_pin : (takeEvent s).pin = s.pin := rfl
@[simp] theorem takeEvent_pout : (takeEvent s).pout = s.pout := rfl
@[simp] theorem takeEvent_rk : (takeEvent s).rk = s.rk := rfl
@[simp] theorem takeEvent_xw : (takeEvent s).xw = s.xw := rfl
@[simp] theorem takeEvent_rnd : (takeEvent s).rnd = s.rnd := rfl
@[simp] theorem takeEvent_dir : (takeEvent s).dir = s.dir := rfl
@[simp] theorem takeEvent_fsel : (takeEvent s).fsel = s.fsel := rfl
@[simp] theorem takeEvent_opc : (takeEvent s).opc = s.opc := rfl
@[simp] theorem takeEvent_bi : (takeEvent s).bi = s.bi := rfl
@[simp] theorem takeEvent_cw : (takeEvent s).cw = s.cw := rfl
@[simp] theorem takeEvent_buf : (takeEvent s).buf = s.buf := rfl
@[simp] theorem takeEvent_launch : (takeEvent s).launch = s.launch := rfl
@[simp] theorem takeEvent_draws : (takeEvent s).draws = s.draws := rfl
@[simp] theorem takeEvent_rstAsserted : (takeEvent s).rstAsserted = s.rstAsserted := rfl
@[simp] theorem takeEvent_agenda : (takeEvent s).agenda = s.agenda.tail := rfl
@[simp] theorem takeEvent_responses : (takeEvent s).responses = s.responses := rfl

end

/-! ## the start of a block (R246) -/

section
variable (i : Instr) (k : Nat) (s : State)

@[simp] theorem loadBlock_cfg : (loadBlock i k s).cfg = s.cfg := rfl
@[simp] theorem loadBlock_busy : (loadBlock i k s).busy = s.busy := rfl
@[simp] theorem loadBlock_done : (loadBlock i k s).done = s.done := rfl
@[simp] theorem loadBlock_err : (loadBlock i k s).err = s.err := rfl
@[simp] theorem loadBlock_rkValid : (loadBlock i k s).rkValid = s.rkValid := rfl
@[simp] theorem loadBlock_ovr : (loadBlock i k s).ovr = s.ovr := rfl
@[simp] theorem loadBlock_errcode : (loadBlock i k s).errcode = s.errcode := rfl
@[simp] theorem loadBlock_ie : (loadBlock i k s).ie = s.ie := rfl
@[simp] theorem loadBlock_key : (loadBlock i k s).key = s.key := rfl
@[simp] theorem loadBlock_din : (loadBlock i k s).din = s.din := rfl
@[simp] theorem loadBlock_dout : (loadBlock i k s).dout = s.dout := rfl
@[simp] theorem loadBlock_ctr : (loadBlock i k s).ctr = s.ctr := rfl
@[simp] theorem loadBlock_src : (loadBlock i k s).src = s.src := rfl
@[simp] theorem loadBlock_dst : (loadBlock i k s).dst = s.dst := rfl
@[simp] theorem loadBlock_len : (loadBlock i k s).len = s.len := rfl
@[simp] theorem loadBlock_outlen : (loadBlock i k s).outlen = s.outlen := rfl
@[simp] theorem loadBlock_pin : (loadBlock i k s).pin = s.pin := rfl
@[simp] theorem loadBlock_pout : (loadBlock i k s).pout = s.pout := rfl
@[simp] theorem loadBlock_rk : (loadBlock i k s).rk = s.rk := rfl
@[simp] theorem loadBlock_xw : (loadBlock i k s).xw = blockWords i k s := rfl
@[simp] theorem loadBlock_rnd : (loadBlock i k s).rnd = 0 := rfl
@[simp] theorem loadBlock_dir : (loadBlock i k s).dir = reverseOrder i := rfl
@[simp] theorem loadBlock_fsel : (loadBlock i k s).fsel = false := rfl
@[simp] theorem loadBlock_opc : (loadBlock i k s).opc = s.opc := rfl
@[simp] theorem loadBlock_bi : (loadBlock i k s).bi = if isBuffer i then k else s.bi := rfl
@[simp] theorem loadBlock_cw : (loadBlock i k s).cw = if i = .ctrXform then counter0 s + BitVec.ofNat 128 k else s.cw := rfl
@[simp] theorem loadBlock_buf : (loadBlock i k s).buf = s.buf := rfl
@[simp] theorem loadBlock_launch : (loadBlock i k s).launch = s.launch := rfl
@[simp] theorem loadBlock_draws : (loadBlock i k s).draws = s.draws := rfl
@[simp] theorem loadBlock_rstAsserted : (loadBlock i k s).rstAsserted = s.rstAsserted := rfl
@[simp] theorem loadBlock_agenda : (loadBlock i k s).agenda = s.agenda := rfl
@[simp] theorem loadBlock_responses : (loadBlock i k s).responses = s.responses := rfl

end

/-! ## one round (R223, R246) -/

section
variable (s : State)

@[simp] theorem datapathRound_cfg : (datapathRound s).cfg = s.cfg := rfl
@[simp] theorem datapathRound_busy : (datapathRound s).busy = s.busy := rfl
@[simp] theorem datapathRound_done : (datapathRound s).done = s.done := rfl
@[simp] theorem datapathRound_err : (datapathRound s).err = s.err := rfl
@[simp] theorem datapathRound_rkValid : (datapathRound s).rkValid = s.rkValid := rfl
@[simp] theorem datapathRound_ovr : (datapathRound s).ovr = s.ovr := rfl
@[simp] theorem datapathRound_errcode : (datapathRound s).errcode = s.errcode := rfl
@[simp] theorem datapathRound_ie : (datapathRound s).ie = s.ie := rfl
@[simp] theorem datapathRound_key : (datapathRound s).key = s.key := rfl
@[simp] theorem datapathRound_din : (datapathRound s).din = s.din := rfl
@[simp] theorem datapathRound_dout : (datapathRound s).dout = s.dout := rfl
@[simp] theorem datapathRound_ctr : (datapathRound s).ctr = s.ctr := rfl
@[simp] theorem datapathRound_src : (datapathRound s).src = s.src := rfl
@[simp] theorem datapathRound_dst : (datapathRound s).dst = s.dst := rfl
@[simp] theorem datapathRound_len : (datapathRound s).len = s.len := rfl
@[simp] theorem datapathRound_outlen : (datapathRound s).outlen = s.outlen := rfl
@[simp] theorem datapathRound_pin : (datapathRound s).pin = s.pin := rfl
@[simp] theorem datapathRound_pout : (datapathRound s).pout = s.pout := rfl
@[simp] theorem datapathRound_rk : (datapathRound s).rk = s.rk := rfl
@[simp] theorem datapathRound_xw : (datapathRound s).xw = s.xw.push (feistel (fun x => diffuse s.fsel (tau x)) (roundKey s) s.xw) := rfl
@[simp] theorem datapathRound_rnd : (datapathRound s).rnd = s.rnd + 1 := rfl
@[simp] theorem datapathRound_dir : (datapathRound s).dir = s.dir := rfl
@[simp] theorem datapathRound_fsel : (datapathRound s).fsel = s.fsel := rfl
@[simp] theorem datapathRound_opc : (datapathRound s).opc = s.opc := rfl
@[simp] theorem datapathRound_bi : (datapathRound s).bi = s.bi := rfl
@[simp] theorem datapathRound_cw : (datapathRound s).cw = s.cw := rfl
@[simp] theorem datapathRound_buf : (datapathRound s).buf = s.buf := rfl
@[simp] theorem datapathRound_launch : (datapathRound s).launch = s.launch := rfl
@[simp] theorem datapathRound_draws : (datapathRound s).draws = s.draws := rfl
@[simp] theorem datapathRound_rstAsserted : (datapathRound s).rstAsserted = s.rstAsserted := rfl
@[simp] theorem datapathRound_agenda : (datapathRound s).agenda = s.agenda := rfl
@[simp] theorem datapathRound_responses : (datapathRound s).responses = s.responses := rfl

end

/-! ## a host BUF write (R89) -/

section
variable (a : Nat) (b : Byte) (s : State)

@[simp] theorem bufWrite_cfg : (bufWrite a b s).cfg = s.cfg := rfl
@[simp] theorem bufWrite_busy : (bufWrite a b s).busy = s.busy := rfl
@[simp] theorem bufWrite_done : (bufWrite a b s).done = s.done := rfl
@[simp] theorem bufWrite_err : (bufWrite a b s).err = s.err := rfl
@[simp] theorem bufWrite_rkValid : (bufWrite a b s).rkValid = s.rkValid := rfl
@[simp] theorem bufWrite_ovr : (bufWrite a b s).ovr = s.ovr := rfl
@[simp] theorem bufWrite_errcode : (bufWrite a b s).errcode = s.errcode := rfl
@[simp] theorem bufWrite_ie : (bufWrite a b s).ie = s.ie := rfl
@[simp] theorem bufWrite_key : (bufWrite a b s).key = s.key := rfl
@[simp] theorem bufWrite_din : (bufWrite a b s).din = s.din := rfl
@[simp] theorem bufWrite_dout : (bufWrite a b s).dout = s.dout := rfl
@[simp] theorem bufWrite_ctr : (bufWrite a b s).ctr = s.ctr := rfl
@[simp] theorem bufWrite_src : (bufWrite a b s).src = s.src := rfl
@[simp] theorem bufWrite_dst : (bufWrite a b s).dst = s.dst := rfl
@[simp] theorem bufWrite_len : (bufWrite a b s).len = s.len := rfl
@[simp] theorem bufWrite_outlen : (bufWrite a b s).outlen = s.outlen := rfl
@[simp] theorem bufWrite_pin : (bufWrite a b s).pin = s.pin := rfl
@[simp] theorem bufWrite_pout : (bufWrite a b s).pout = s.pout := rfl
@[simp] theorem bufWrite_rk : (bufWrite a b s).rk = s.rk := rfl
@[simp] theorem bufWrite_xw : (bufWrite a b s).xw = s.xw := rfl
@[simp] theorem bufWrite_rnd : (bufWrite a b s).rnd = s.rnd := rfl
@[simp] theorem bufWrite_dir : (bufWrite a b s).dir = s.dir := rfl
@[simp] theorem bufWrite_fsel : (bufWrite a b s).fsel = s.fsel := rfl
@[simp] theorem bufWrite_opc : (bufWrite a b s).opc = s.opc := rfl
@[simp] theorem bufWrite_bi : (bufWrite a b s).bi = s.bi := rfl
@[simp] theorem bufWrite_cw : (bufWrite a b s).cw = s.cw := rfl
@[simp] theorem bufWrite_buf : (bufWrite a b s).buf = s.buf.set a b := rfl
@[simp] theorem bufWrite_launch : (bufWrite a b s).launch = s.launch := rfl
@[simp] theorem bufWrite_draws : (bufWrite a b s).draws = s.draws := rfl
@[simp] theorem bufWrite_rstAsserted : (bufWrite a b s).rstAsserted = s.rstAsserted := rfl
@[simp] theorem bufWrite_agenda : (bufWrite a b s).agenda = s.agenda := rfl
@[simp] theorem bufWrite_responses : (bufWrite a b s).responses = s.responses := rfl

end

/-! ## Registers at their reset values (R59, R380) -/

section
variable (s : State)

@[simp] theorem resetRegisters_cfg : (resetRegisters s).cfg = s.cfg := rfl
@[simp] theorem resetRegisters_busy : (resetRegisters s).busy = State.reset.busy := rfl
@[simp] theorem resetRegisters_done : (resetRegisters s).done = State.reset.done := rfl
@[simp] theorem resetRegisters_err : (resetRegisters s).err = State.reset.err := rfl
@[simp] theorem resetRegisters_rkValid : (resetRegisters s).rkValid = State.reset.rkValid := rfl
@[simp] theorem resetRegisters_ovr : (resetRegisters s).ovr = State.reset.ovr := rfl
@[simp] theorem resetRegisters_errcode : (resetRegisters s).errcode = State.reset.errcode := rfl
@[simp] theorem resetRegisters_ie : (resetRegisters s).ie = State.reset.ie := rfl
@[simp] theorem resetRegisters_key : (resetRegisters s).key = State.reset.key := rfl
@[simp] theorem resetRegisters_din : (resetRegisters s).din = State.reset.din := rfl
@[simp] theorem resetRegisters_dout : (resetRegisters s).dout = State.reset.dout := rfl
@[simp] theorem resetRegisters_ctr : (resetRegisters s).ctr = State.reset.ctr := rfl
@[simp] theorem resetRegisters_src : (resetRegisters s).src = State.reset.src := rfl
@[simp] theorem resetRegisters_dst : (resetRegisters s).dst = State.reset.dst := rfl
@[simp] theorem resetRegisters_len : (resetRegisters s).len = State.reset.len := rfl
@[simp] theorem resetRegisters_outlen : (resetRegisters s).outlen = State.reset.outlen := rfl
@[simp] theorem resetRegisters_pin : (resetRegisters s).pin = State.reset.pin := rfl
@[simp] theorem resetRegisters_pout : (resetRegisters s).pout = State.reset.pout := rfl
@[simp] theorem resetRegisters_rk : (resetRegisters s).rk = State.reset.rk := rfl
@[simp] theorem resetRegisters_xw : (resetRegisters s).xw = State.reset.xw := rfl
@[simp] theorem resetRegisters_rnd : (resetRegisters s).rnd = State.reset.rnd := rfl
@[simp] theorem resetRegisters_dir : (resetRegisters s).dir = State.reset.dir := rfl
@[simp] theorem resetRegisters_fsel : (resetRegisters s).fsel = State.reset.fsel := rfl
@[simp] theorem resetRegisters_opc : (resetRegisters s).opc = State.reset.opc := rfl
@[simp] theorem resetRegisters_bi : (resetRegisters s).bi = State.reset.bi := rfl
@[simp] theorem resetRegisters_cw : (resetRegisters s).cw = State.reset.cw := rfl
@[simp] theorem resetRegisters_buf : (resetRegisters s).buf = s.buf := rfl
@[simp] theorem resetRegisters_launch : (resetRegisters s).launch = s.launch := rfl
@[simp] theorem resetRegisters_draws : (resetRegisters s).draws = s.draws := rfl
@[simp] theorem resetRegisters_rstAsserted : (resetRegisters s).rstAsserted = s.rstAsserted := rfl
@[simp] theorem resetRegisters_agenda : (resetRegisters s).agenda = s.agenda := rfl
@[simp] theorem resetRegisters_responses : (resetRegisters s).responses = s.responses := rfl

end

end Sys2Proof.Machine
end

