-- ==== Sys2Proof/Laws/Cipher.lean ====
section
/-! SUPPORT. Byte order, the window of the round iteration, and the subkey file: the small lemmas of
Machine/Primitives.lean and Machine/Cipher.lean. -/

namespace Sys2Proof.Machine

open Sys2Proof

/-! ## Byte order -/

/-- Bits of `be32`. -/
theorem be32_getLsbD (b0 b1 b2 b3 : Byte) (i : Nat) :
    (be32 b0 b1 b2 b3).getLsbD i =
      if i < 8 then b3.getLsbD i else if i < 16 then b2.getLsbD (i - 8)
      else if i < 24 then b1.getLsbD (i - 16) else b0.getLsbD (i - 24) := by
  simp only [be32, BitVec.getLsbD_append]
  by_cases h1 : i < 8
  · simp [h1]
  · by_cases h2 : i < 16
    · have : i - 8 < 8 := by omega
      simp [h1, h2, this]
    · by_cases h3 : i < 24
      · have e1 : ¬ i - 8 < 8 := by omega
        have e2 : i - 8 - 8 < 8 := by omega
        have e3 : i - 8 - 8 = i - 16 := by omega
        simp [h1, h2, h3, e1, e3]; intro; omega
      · have e1 : ¬ i - 8 < 8 := by omega
        have e2 : ¬ i - 8 - 8 < 8 := by omega
        have e3 : i - 8 - 8 - 8 = i - 24 := by omega
        simp [h1, h2, h3, e1, e2, e3]

theorem be32_unbe32 (w : Word) :
    be32 (w.extractLsb' 24 8) (w.extractLsb' 16 8) (w.extractLsb' 8 8) (w.extractLsb' 0 8) = w := by
  apply BitVec.eq_of_getLsbD_eq
  intro i hi
  rw [be32_getLsbD]
  simp only [BitVec.getLsbD_extractLsb']
  by_cases h1 : i < 8
  · simp [h1]
  · by_cases h2 : i < 16
    · have e : i - 8 < 8 := by omega
      have e2 : 8 + (i - 8) = i := by omega
      simp [h1, h2, e, e2]
    · by_cases h3 : i < 24
      · have e : i - 16 < 8 := by omega
        have e2 : 16 + (i - 16) = i := by omega
        simp [h1, h2, h3, e, e2]
      · have e : i - 24 < 8 := by omega
        have e2 : 24 + (i - 24) = i := by omega
        simp [h1, h2, h3, e, e2]

theorem unbe32_be32 (b0 b1 b2 b3 : Byte) : unbe32 (be32 b0 b1 b2 b3) = [b0, b1, b2, b3] := by
  have key : ∀ (j : Nat) (b : Byte), (∀ i, i < 8 → (be32 b0 b1 b2 b3).getLsbD (j + i) = b.getLsbD i) →
      (be32 b0 b1 b2 b3).extractLsb' j 8 = b := by
    intro j b h
    apply BitVec.eq_of_getLsbD_eq
    intro i hi
    simp [hi, h i hi]
  simp only [unbe32, List.cons.injEq, and_true]
  refine ⟨key 24 b0 fun i hi => ?_, key 16 b1 fun i hi => ?_, key 8 b2 fun i hi => ?_, key 0 b3 fun i hi => ?_⟩
  all_goals rw [be32_getLsbD]
  · rw [if_neg (by omega), if_neg (by omega), if_neg (by omega)]; congr 1; omega
  · rw [if_neg (by omega), if_neg (by omega), if_pos (by omega)]; congr 1; omega
  · rw [if_neg (by omega), if_pos (by omega)]; congr 1; omega
  · rw [if_pos (by omega)]; congr 1; omega

@[simp] theorem bytesOf_length (q : Quad) : (bytesOf q).length = 16 := rfl

/-- `words(unbe32(Q[0]) || … || unbe32(Q[3]))` is Q (R12, R47). -/
@[simp] theorem wordsOf_bytesOf (q : Quad) : wordsOf (bytesOf q) = q := by
  simp [wordsOf, bytesOf, unbe32, be32_unbe32]

/-- A 16-byte block is the serialisation of its four words (R12). -/
theorem bytesOf_wordsOf (b : List Byte) (h : b.length = 16) : bytesOf (wordsOf b) = b := by
  simp only [bytesOf, wordsOf, unbe32_be32]
  apply List.ext_getElem?
  intro k
  by_cases hk : k < 16
  · interval_cases k <;> simp [h]
  · rw [List.getElem?_eq_none (by simp; omega), List.getElem?_eq_none (by omega)]

@[simp] theorem sm4Block_length (sk : Nat → Word) (b : List Byte) : (sm4Block sk b).length = 16 := rfl

@[simp] theorem eFwd_length (rk : RkFile) (b : List Byte) : (eFwd rk b).length = 16 := rfl

@[simp] theorem eRev_length (rk : RkFile) (b : List Byte) : (eRev rk b).length = 16 := rfl

@[simp] theorem keystream_length (s : State) (i : Nat) : (keystream s i).length = 16 := rfl

/-! ## The window -/

@[simp] theorem window_zero (t : Word → Word) (ks : Nat → Word) (x : Quad) : window t ks x 0 = x := rfl

theorem window_succ (t : Word → Word) (ks : Nat → Word) (x : Quad) (n : Nat) :
    window t ks x (n + 1) = (window t ks x n).push (feistel t (ks n) (window t ks x n)) := rfl

/-- The window holds four neighbours of any sequence with the recurrence of R221 or R241. -/
theorem window_of_recurrence (t : Word → Word) (ks X : Nat → Word) (n : Nat)
    (h : ∀ i, i < n → X (i + 4) = X i ^^^ t (X (i + 1) ^^^ X (i + 2) ^^^ X (i + 3) ^^^ ks i)) :
    window t ks ⟨X 0, X 1, X 2, X 3⟩ n = ⟨X n, X (n + 1), X (n + 2), X (n + 3)⟩ := by
  induction n with
  | zero => rfl
  | succ n ih =>
    rw [window_succ, ih fun i hi => h i (by omega)]
    simp [Quad.push, feistel, ← h n (by omega), Nat.add_assoc]

/-! ## The subkey file -/

/-- `RK[n]` after KEY_EXPAND (R222). -/
theorem rkAt_keySchedule (key : Quad) (n : Nat) (h : n < 32) :
    rkAt (keySchedule key) n = (keyWindow key (n + 1)).w3 := by
  simp [rkAt, keySchedule, h]

@[simp] theorem subkeyMux_false (rk : RkFile) (n : Nat) : subkeyMux rk false n = rkAt rk n := rfl

@[simp] theorem subkeyMux_true (rk : RkFile) (n : Nat) : subkeyMux rk true n = rkAt rk (31 - n) := rfl

theorem window_congr (t : Word → Word) (ks ks' : Nat → Word) (x : Quad) (n : Nat)
    (h : ∀ i, i < n → ks i = ks' i) : window t ks x n = window t ks' x n := by
  induction n with
  | zero => rfl
  | succ n ih => rw [window_succ, window_succ, ih fun i hi => h i (by omega), h n (by omega)]

/-- The rounds undone: from the reversed last window, with the round keys in reverse order. -/
theorem window_reverse (t : Word → Word) (ks : Nat → Word) (x : Quad) (N n : Nat) (hn : n ≤ N) :
    window t (fun i => ks (N - 1 - i)) (outputStage (window t ks x N)) n = outputStage (window t ks x (N - n)) := by
  induction n with
  | zero => rfl
  | succ n ih =>
    rw [window_succ, ih (by omega)]
    obtain ⟨m, hm⟩ : ∃ m, N - n = m + 1 := ⟨N - n - 1, by omega⟩
    have e1 : N - (n + 1) = m := by omega
    have e2 : N - 1 - n = m := by omega
    rw [hm, e1, window_succ]
    simp only [e2, outputStage, Quad.push, feistel]
    congr 1
    rw [show (window t ks x m).w3 ^^^ (window t ks x m).w2 ^^^ (window t ks x m).w1
      = (window t ks x m).w1 ^^^ (window t ks x m).w2 ^^^ (window t ks x m).w3 by ac_rfl]
    rw [BitVec.xor_assoc, BitVec.xor_self, BitVec.xor_zero]

/-- The 128-bit value of four words as a number (R39). -/
theorem valueOf_toNat (q : Quad) :
    (valueOf q).toNat = q.w0.toNat * 2 ^ 96 + q.w1.toNat * 2 ^ 64 + q.w2.toNat * 2 ^ 32 + q.w3.toNat := by
  have h := q.w3.isLt; have h2 := q.w2.isLt; have h1 := q.w1.isLt
  simp only [valueOf, BitVec.toNat_append]
  rw [← Nat.shiftLeft_add_eq_or_of_lt (by omega), ← Nat.shiftLeft_add_eq_or_of_lt (by omega),
    ← Nat.shiftLeft_add_eq_or_of_lt (by omega)]
  simp only [Nat.shiftLeft_eq]
  ring

end Sys2Proof.Machine
end

