-- ==== Sys2Proof/Laws/Datapath.lean ====
section
/-! SUPPORT. The datapath operations change Xw, RND, DIR, FSEL, BI and CW, and nothing else (R50 to R56). -/

namespace Sys2Proof.Machine

open Sys2Proof

/-- `s` with the hidden datapath registers of `d`. -/
def withDatapathOf (s d : State) : State :=
  { s with xw := d.xw, rnd := d.rnd, dir := d.dir, fsel := d.fsel, bi := d.bi, cw := d.cw }


/-- The start of a command changes the hidden datapath registers only. -/
theorem datapathStart_frame (i : Instr) (s : State) : datapathStart i s = withDatapathOf s (datapathStart i s) := by
  unfold datapathStart
  repeat' split
  all_goals rfl

section
variable (i : Instr) (s : State)

@[simp] theorem datapathStart_cfg : (datapathStart i s).cfg = s.cfg := by rw [datapathStart_frame]; rfl
@[simp] theorem datapathStart_busy : (datapathStart i s).busy = s.busy := by rw [datapathStart_frame]; rfl
@[simp] theorem datapathStart_done : (datapathStart i s).done = s.done := by rw [datapathStart_frame]; rfl
@[simp] theorem datapathStart_err : (datapathStart i s).err = s.err := by rw [datapathStart_frame]; rfl
@[simp] theorem datapathStart_rkValid : (datapathStart i s).rkValid = s.rkValid := by rw [datapathStart_frame]; rfl
@[simp] theorem datapathStart_ovr : (datapathStart i s).ovr = s.ovr := by rw [datapathStart_frame]; rfl
@[simp] theorem datapathStart_errcode : (datapathStart i s).errcode = s.errcode := by rw [datapathStart_frame]; rfl
@[simp] theorem datapathStart_ie : (datapathStart i s).ie = s.ie := by rw [datapathStart_frame]; rfl
@[simp] theorem datapathStart_key : (datapathStart i s).key = s.key := by rw [datapathStart_frame]; rfl
@[simp] theorem datapathStart_din : (datapathStart i s).din = s.din := by rw [datapathStart_frame]; rfl
@[simp] theorem datapathStart_dout : (datapathStart i s).dout = s.dout := by rw [datapathStart_frame]; rfl
@[simp] theorem datapathStart_ctr : (datapathStart i s).ctr = s.ctr := by rw [datapathStart_frame]; rfl
@[simp] theorem datapathStart_src : (datapathStart i s).src = s.src := by rw [datapathStart_frame]; rfl
@[simp] theorem datapathStart_dst : (datapathStart i s).dst = s.dst := by rw [datapathStart_frame]; rfl
@[simp] theorem datapathStart_len : (datapathStart i s).len = s.len := by rw [datapathStart_frame]; rfl
@[simp] theorem datapathStart_outlen : (datapathStart i s).outlen = s.outlen := by rw [datapathStart_frame]; rfl
@[simp] theorem datapathStart_pin : (datapathStart i s).pin = s.pin := by rw [datapathStart_frame]; rfl
@[simp] theorem datapathStart_pout : (datapathStart i s).pout = s.pout := by rw [datapathStart_frame]; rfl
@[simp] theorem datapathStart_rk : (datapathStart i s).rk = s.rk := by rw [datapathStart_frame]; rfl
@[simp] theorem datapathStart_opc : (datapathStart i s).opc = s.opc := by rw [datapathStart_frame]; rfl
@[simp] theorem datapathStart_buf : (datapathStart i s).buf = s.buf := by rw [datapathStart_frame]; rfl
@[simp] theorem datapathStart_launch : (datapathStart i s).launch = s.launch := by rw [datapathStart_frame]; rfl
@[simp] theorem datapathStart_draws : (datapathStart i s).draws = s.draws := by rw [datapathStart_frame]; rfl
@[simp] theorem datapathStart_rstAsserted : (datapathStart i s).rstAsserted = s.rstAsserted := by rw [datapathStart_frame]; rfl
@[simp] theorem datapathStart_agenda : (datapathStart i s).agenda = s.agenda := by rw [datapathStart_frame]; rfl
@[simp] theorem datapathStart_responses : (datapathStart i s).responses = s.responses := by rw [datapathStart_frame]; rfl

end

/-- An internal engine step changes the hidden datapath registers only. -/
theorem datapathStep_frame (i : Instr) (s : State) : datapathStep i s = withDatapathOf s (datapathStep i s) := by
  unfold datapathStep
  repeat' split
  all_goals rfl

section
variable (i : Instr) (s : State)

@[simp] theorem datapathStep_cfg : (datapathStep i s).cfg = s.cfg := by rw [datapathStep_frame]; rfl
@[simp] theorem datapathStep_busy : (datapathStep i s).busy = s.busy := by rw [datapathStep_frame]; rfl
@[simp] theorem datapathStep_done : (datapathStep i s).done = s.done := by rw [datapathStep_frame]; rfl
@[simp] theorem datapathStep_err : (datapathStep i s).err = s.err := by rw [datapathStep_frame]; rfl
@[simp] theorem datapathStep_rkValid : (datapathStep i s).rkValid = s.rkValid := by rw [datapathStep_frame]; rfl
@[simp] theorem datapathStep_ovr : (datapathStep i s).ovr = s.ovr := by rw [datapathStep_frame]; rfl
@[simp] theorem datapathStep_errcode : (datapathStep i s).errcode = s.errcode := by rw [datapathStep_frame]; rfl
@[simp] theorem datapathStep_ie : (datapathStep i s).ie = s.ie := by rw [datapathStep_frame]; rfl
@[simp] theorem datapathStep_key : (datapathStep i s).key = s.key := by rw [datapathStep_frame]; rfl
@[simp] theorem datapathStep_din : (datapathStep i s).din = s.din := by rw [datapathStep_frame]; rfl
@[simp] theorem datapathStep_dout : (datapathStep i s).dout = s.dout := by rw [datapathStep_frame]; rfl
@[simp] theorem datapathStep_ctr : (datapathStep i s).ctr = s.ctr := by rw [datapathStep_frame]; rfl
@[simp] theorem datapathStep_src : (datapathStep i s).src = s.src := by rw [datapathStep_frame]; rfl
@[simp] theorem datapathStep_dst : (datapathStep i s).dst = s.dst := by rw [datapathStep_frame]; rfl
@[simp] theorem datapathStep_len : (datapathStep i s).len = s.len := by rw [datapathStep_frame]; rfl
@[simp] theorem datapathStep_outlen : (datapathStep i s).outlen = s.outlen := by rw [datapathStep_frame]; rfl
@[simp] theorem datapathStep_pin : (datapathStep i s).pin = s.pin := by rw [datapathStep_frame]; rfl
@[simp] theorem datapathStep_pout : (datapathStep i s).pout = s.pout := by rw [datapathStep_frame]; rfl
@[simp] theorem datapathStep_rk : (datapathStep i s).rk = s.rk := by rw [datapathStep_frame]; rfl
@[simp] theorem datapathStep_opc : (datapathStep i s).opc = s.opc := by rw [datapathStep_frame]; rfl
@[simp] theorem datapathStep_buf : (datapathStep i s).buf = s.buf := by rw [datapathStep_frame]; rfl
@[simp] theorem datapathStep_launch : (datapathStep i s).launch = s.launch := by rw [datapathStep_frame]; rfl
@[simp] theorem datapathStep_draws : (datapathStep i s).draws = s.draws := by rw [datapathStep_frame]; rfl
@[simp] theorem datapathStep_rstAsserted : (datapathStep i s).rstAsserted = s.rstAsserted := by rw [datapathStep_frame]; rfl
@[simp] theorem datapathStep_agenda : (datapathStep i s).agenda = s.agenda := by rw [datapathStep_frame]; rfl
@[simp] theorem datapathStep_responses : (datapathStep i s).responses = s.responses := by rw [datapathStep_frame]; rfl

end

/-- The end of a command changes the hidden datapath registers only. -/
theorem datapathFinish_frame (i : Instr) (s : State) : datapathFinish i s = withDatapathOf s (datapathFinish i s) := by
  unfold datapathFinish
  repeat' split
  all_goals rfl

section
variable (i : Instr) (s : State)

@[simp] theorem datapathFinish_cfg : (datapathFinish i s).cfg = s.cfg := by rw [datapathFinish_frame]; rfl
@[simp] theorem datapathFinish_busy : (datapathFinish i s).busy = s.busy := by rw [datapathFinish_frame]; rfl
@[simp] theorem datapathFinish_done : (datapathFinish i s).done = s.done := by rw [datapathFinish_frame]; rfl
@[simp] theorem datapathFinish_err : (datapathFinish i s).err = s.err := by rw [datapathFinish_frame]; rfl
@[simp] theorem datapathFinish_rkValid : (datapathFinish i s).rkValid = s.rkValid := by rw [datapathFinish_frame]; rfl
@[simp] theorem datapathFinish_ovr : (datapathFinish i s).ovr = s.ovr := by rw [datapathFinish_frame]; rfl
@[simp] theorem datapathFinish_errcode : (datapathFinish i s).errcode = s.errcode := by rw [datapathFinish_frame]; rfl
@[simp] theorem datapathFinish_ie : (datapathFinish i s).ie = s.ie := by rw [datapathFinish_frame]; rfl
@[simp] theorem datapathFinish_key : (datapathFinish i s).key = s.key := by rw [datapathFinish_frame]; rfl
@[simp] theorem datapathFinish_din : (datapathFinish i s).din = s.din := by rw [datapathFinish_frame]; rfl
@[simp] theorem datapathFinish_dout : (datapathFinish i s).dout = s.dout := by rw [datapathFinish_frame]; rfl
@[simp] theorem datapathFinish_ctr : (datapathFinish i s).ctr = s.ctr := by rw [datapathFinish_frame]; rfl
@[simp] theorem datapathFinish_src : (datapathFinish i s).src = s.src := by rw [datapathFinish_frame]; rfl
@[simp] theorem datapathFinish_dst : (datapathFinish i s).dst = s.dst := by rw [datapathFinish_frame]; rfl
@[simp] theorem datapathFinish_len : (datapathFinish i s).len = s.len := by rw [datapathFinish_frame]; rfl
@[simp] theorem datapathFinish_outlen : (datapathFinish i s).outlen = s.outlen := by rw [datapathFinish_frame]; rfl
@[simp] theorem datapathFinish_pin : (datapathFinish i s).pin = s.pin := by rw [datapathFinish_frame]; rfl
@[simp] theorem datapathFinish_pout : (datapathFinish i s).pout = s.pout := by rw [datapathFinish_frame]; rfl
@[simp] theorem datapathFinish_rk : (datapathFinish i s).rk = s.rk := by rw [datapathFinish_frame]; rfl
@[simp] theorem datapathFinish_opc : (datapathFinish i s).opc = s.opc := by rw [datapathFinish_frame]; rfl
@[simp] theorem datapathFinish_buf : (datapathFinish i s).buf = s.buf := by rw [datapathFinish_frame]; rfl
@[simp] theorem datapathFinish_launch : (datapathFinish i s).launch = s.launch := by rw [datapathFinish_frame]; rfl
@[simp] theorem datapathFinish_draws : (datapathFinish i s).draws = s.draws := by rw [datapathFinish_frame]; rfl
@[simp] theorem datapathFinish_rstAsserted : (datapathFinish i s).rstAsserted = s.rstAsserted := by rw [datapathFinish_frame]; rfl
@[simp] theorem datapathFinish_agenda : (datapathFinish i s).agenda = s.agenda := by rw [datapathFinish_frame]; rfl
@[simp] theorem datapathFinish_responses : (datapathFinish i s).responses = s.responses := by rw [datapathFinish_frame]; rfl

end

end Sys2Proof.Machine
end

