-- ==== Sys2Proof/Laws/Memory.lean ====
section
/-! SUPPORT. BUF: read after write, and the canonical form kept by every memory operation. -/

namespace Sys2Proof.Machine

open Sys2Proof

/-! ## One byte -/

@[simp] theorem Memory.get?_nil (a : Nat) : Memory.get? [] a = none := rfl

/-- A read after a write: the byte written, or the byte that was there. -/
theorem Memory.get?_set (m : Memory) (a x : Nat) (b : Byte) :
    (m.set a b).get? x = if x = a then some b else m.get? x := by
  induction m with
  | nil => simp [Memory.set, Memory.get?]
  | cons c m ih =>
    obtain ⟨k, v⟩ := c
    unfold Memory.set
    by_cases h1 : a < k
    · simp only [h1, if_true, Memory.get?]
    · by_cases h2 : a = k
      · subst h2
        by_cases h3 : x = a <;> simp [Memory.get?, h3]
      · simp only [h1, h2, if_false, Memory.get?, ih]
        by_cases h3 : x = k
        · have : x ≠ a := by omega
          simp [h3]
          intro h; omega
        · simp [h3]

/-- The cells of a memory after a write. -/
theorem Memory.mem_set {m : Memory} {a : Nat} {b : Byte} {c : Host.Cell} (h : c ∈ m.set a b) :
    c.1 = a ∨ c ∈ m := by
  induction m with
  | nil => left; simp [Memory.set] at h; simp [h]
  | cons d m ih =>
    obtain ⟨k, v⟩ := d
    unfold Memory.set at h
    split at h
    · rcases List.mem_cons.1 h with h | h
      · left; simp [h]
      · exact .inr h
    · split at h
      · rcases List.mem_cons.1 h with h | h
        · left; simp [h]
        · exact .inr (List.mem_cons_of_mem _ h)
      · rcases List.mem_cons.1 h with h | h
        · exact .inr (by simp [h])
        · exact (ih h).imp_right (List.mem_cons_of_mem _)

theorem Memory.wf_cons (k : Nat) (v : Byte) (m : Memory) :
    Memory.wf ((k, v) :: m) = true ↔ (∀ c ∈ m, k < c.1) ∧ Memory.wf m = true := by
  simp [Memory.wf]

/-- A write keeps the canonical form. -/
theorem Memory.wf_set {m : Memory} (h : m.wf = true) (a : Nat) (b : Byte) : (m.set a b).wf = true := by
  induction m with
  | nil => simp [Memory.set, Memory.wf]
  | cons c m ih =>
    obtain ⟨k, v⟩ := c
    rw [Memory.wf_cons] at h
    unfold Memory.set
    split
    next hlt =>
      rw [Memory.wf_cons, Memory.wf_cons]
      refine ⟨fun c hc => ?_, h⟩
      rcases List.mem_cons.1 hc with rfl | hc
      · exact hlt
      · exact lt_trans hlt (h.1 c hc)
    next hge =>
      split
      next heq => subst heq; exact (Memory.wf_cons _ _ _).2 h
      next hne =>
        rw [Memory.wf_cons]
        refine ⟨fun c hc => ?_, ih h.2⟩
        rcases Memory.mem_set hc with hc | hc
        · omega
        · exact h.1 c hc

/-! ## Byte sequences -/

/-- A read after `MemWrite`: inside the written bytes, the byte written; outside, the byte that was there. -/
theorem memWrite_get? (bs : List Byte) (m : Memory) (a x : Nat) :
    (memWrite m a bs).get? x = if a ≤ x ∧ x < a + bs.length then bs[x - a]? else m.get? x := by
  induction bs generalizing m a with
  | nil => simp [memWrite]
  | cons b bs ih =>
    rw [memWrite, ih, Memory.get?_set]
    by_cases h1 : a + 1 ≤ x ∧ x < a + 1 + bs.length
    · have h2 : a ≤ x ∧ x < a + (b :: bs).length := by simp; omega
      obtain ⟨d, rfl⟩ : ∃ d, x = a + 1 + d := ⟨x - (a + 1), by omega⟩
      rw [if_pos h1, if_pos h2]
      have e1 : a + 1 + d - (a + 1) = d := by omega
      have e2 : a + 1 + d - a = d + 1 := by omega
      rw [e1, e2, List.getElem?_cons_succ]
    · rw [if_neg h1]
      by_cases h3 : x = a
      · subst h3; simp
      · have h4 : ¬(a ≤ x ∧ x < a + (b :: bs).length) := by simp; omega
        rw [if_neg h3, if_neg h4]

theorem Memory.wf_memWrite {m : Memory} (h : m.wf = true) (a : Nat) (bs : List Byte) :
    (memWrite m a bs).wf = true := by
  induction bs generalizing m a with
  | nil => exact h
  | cons b bs ih => exact ih (Memory.wf_set h a b) (a + 1)

theorem mem_memWrite {bs : List Byte} {m : Memory} {a : Nat} {c : Host.Cell} (h : c ∈ memWrite m a bs) :
    (a ≤ c.1 ∧ c.1 < a + bs.length) ∨ c ∈ m := by
  induction bs generalizing m a with
  | nil => exact .inr h
  | cons b bs ih =>
    rcases ih h with h | h
    · left; simp; omega
    · rcases Memory.mem_set h with h | h
      · left; simp; omega
      · exact .inr h

@[simp] theorem memRead_length (s : State) (a n : Nat) : (memRead s a n).length = n := by
  induction n generalizing a with
  | zero => rfl
  | succ n ih => simp [memRead, ih]

/-- The `k`-th byte of `MemRead(a, n)`. -/
theorem memRead_getElem? (s : State) (a n k : Nat) (h : k < n) :
    (memRead s a n)[k]? = some (bufByte s (a + k)) := by
  induction n generalizing a k with
  | zero => omega
  | succ n ih =>
    cases k with
    | zero => simp [memRead]
    | succ k => rw [memRead, List.getElem?_cons_succ, ih (a + 1) k (by omega)]; congr 2; omega

/-- Two reads agree when every byte read agrees. -/
theorem memRead_congr {s t : State} (a n : Nat) (h : ∀ x, a ≤ x → x < a + n → bufByte s x = bufByte t x) :
    memRead s a n = memRead t a n := by
  induction n generalizing a with
  | zero => rfl
  | succ n ih =>
    rw [memRead, memRead, h a (by omega) (by omega), ih (a + 1) fun x h1 h2 => h x (by omega) (by omega)]

/-- A byte after `MemWrite` (R14): what a state reads at `x` when its BUF is that of `s` with `bs` written at `a`. -/
theorem bufByte_of_memWrite {s t : State} {a : Nat} {bs : List Byte} (hb : t.buf = memWrite s.buf a bs)
    (hl : t.launch = s.launch) (x : Nat) :
    bufByte t x = if a ≤ x ∧ x < a + bs.length then bs.getD (x - a) 0 else bufByte s x := by
  rw [bufByte, hb, hl, memWrite_get?]
  split
  next h =>
    have : x - a < bs.length := by omega
    simp [List.getElem?_eq_getElem this]
  next => rfl

/-- `MemRead` of what `MemWrite` stored. -/
theorem memRead_of_memWrite {s t : State} {a : Nat} {bs : List Byte} (hb : t.buf = memWrite s.buf a bs)
    (hl : t.launch = s.launch) : memRead t a bs.length = bs := by
  apply List.ext_getElem?
  intro k
  by_cases hk : k < bs.length
  · rw [memRead_getElem? _ _ _ _ hk, bufByte_of_memWrite hb hl, if_pos ⟨by omega, by omega⟩]
    simp [List.getElem?_eq_getElem hk]
  · rw [List.getElem?_eq_none (by simp; omega), List.getElem?_eq_none (by omega)]

@[simp] theorem drawBytes_length (d n : Nat) : (drawBytes d n).length = n := by
  induction n generalizing d with
  | zero => rfl
  | succ n ih => simp [drawBytes, ih]

/-! ## Blocks -/

@[simp] theorem sourceBytes_length (s : State) : (sourceBytes s).length = s.len.toNat := memRead_length _ _ _

@[simp] theorem pad_length (p : List Byte) : (pad p).length = p.length + padLen p.length := by simp [pad]

/-- Padding fills whole blocks. -/
theorem padLen_spec (n : Nat) : 1 ≤ padLen n ∧ padLen n ≤ 16 ∧ (n + padLen n) % 16 = 0 := by
  unfold padLen; omega

theorem mapBlocks_length {f : List Byte → List Byte} (hf : ∀ b, (f b).length = 16) (n : Nat) (b : List Byte) :
    (mapBlocks f n b).length = 16 * n := by
  induction n generalizing b with
  | zero => rfl
  | succ n ih => simp [mapBlocks, hf, ih]; omega

theorem xorBlocks_length {ks : Nat → List Byte} (hk : ∀ i, (ks i).length = 16) (n i : Nat) (b : List Byte)
    (h : b.length ≤ 16 * n) : (xorBlocks ks i n b).length = b.length := by
  induction n generalizing i b with
  | zero => simp [xorBlocks]; omega
  | succ n ih =>
    simp only [xorBlocks, List.length_append, List.length_zipWith, List.length_take, hk]
    rw [ih]
    · simp; omega
    · simp; omega

/-- Block `k` of `mapBlocks` is `f` of block `k` (R277). -/
theorem mapBlocks_block {f : List Byte → List Byte} (hf : ∀ b, (f b).length = 16) (n k : Nat) (b : List Byte)
    (hk : k < n) : ((mapBlocks f n b).drop (16 * k)).take 16 = f ((b.drop (16 * k)).take 16) := by
  induction n generalizing k b with
  | zero => omega
  | succ n ih =>
    cases k with
    | zero => simp [mapBlocks, hf]
    | succ k =>
      have e : 16 * (k + 1) = 16 + 16 * k := by omega
      rw [mapBlocks, e, ← List.drop_drop, List.drop_left' (hf _), ih k _ (by omega), List.drop_drop]

/-- Byte `k` of `xorBlocks` is the source byte XORed with byte `k mod 16` of keystream block `k div 16` (R301, R305). -/
theorem xorBlocks_getElem? {ks : Nat → List Byte} (hk : ∀ i, (ks i).length = 16) (n i k : Nat) (b : List Byte)
    (hn : b.length ≤ 16 * n) (h : k < b.length) :
    (xorBlocks ks i n b)[k]? = some (b.getD k 0 ^^^ (ks (i + k / 16)).getD (k % 16) 0) := by
  induction n generalizing i k b with
  | zero => omega
  | succ n ih =>
    have hl : (List.zipWith (· ^^^ ·) (b.take 16) (ks i)).length = min 16 b.length := by simp [hk]
    rw [xorBlocks]
    by_cases h16 : k < 16
    · rw [List.getElem?_append_left (by omega)]
      have hi : k < (ks i).length := by rw [hk]; exact h16
      have e1 : k / 16 = 0 := by omega
      have e2 : k % 16 = k := by omega
      simp [List.getElem?_zipWith, e1, e2, h16, List.getElem?_eq_getElem h, List.getElem?_eq_getElem hi]
    · rw [List.getElem?_append_right (by omega), hl, min_eq_left (by omega),
        ih (i + 1) (k - 16) (b.drop 16) (by simp; omega) (by simp; omega)]
      have e1 : i + 1 + (k - 16) / 16 = i + k / 16 := by omega
      have e2 : (k - 16) % 16 = k % 16 := by omega
      have e3 : 16 + (k - 16) = k := by omega
      rw [e1, e2]
      simp [List.getElem?_drop, e3]

/-- The reset BUF is in canonical form. -/
theorem Memory.wf_reset : State.reset.buf.wf = true := by decide

/-- A segment of what `MemWrite` stored. -/
theorem memRead_segment_of_memWrite {s t : State} {a : Nat} {bs : List Byte} (hb : t.buf = memWrite s.buf a bs)
    (hl : t.launch = s.launch) (k n : Nat) (h : k + n ≤ bs.length) : memRead t (a + k) n = (bs.drop k).take n := by
  apply List.ext_getElem?
  intro j
  by_cases hj : j < n
  · rw [memRead_getElem? _ _ _ _ hj, bufByte_of_memWrite hb hl, if_pos ⟨by omega, by omega⟩]
    have : a + k + j - a = k + j := by omega
    simp [hj, List.getElem?_drop, this,
      List.getElem?_eq_getElem (show k + j < bs.length by omega)]
  · rw [List.getElem?_eq_none (by simp; omega), List.getElem?_eq_none (by simp; omega)]

/-- A segment of a read is a read. -/
theorem memRead_segment (s : State) (a n k m : Nat) (h : k + m ≤ n) :
    ((memRead s a n).drop k).take m = memRead s (a + k) m := by
  apply List.ext_getElem?
  intro j
  by_cases hj : j < m
  · rw [memRead_getElem? _ _ _ _ hj]
    simp [hj, List.getElem?_drop, memRead_getElem? s a n (k + j) (by omega), Nat.add_assoc]
  · rw [List.getElem?_eq_none (by simp; omega), List.getElem?_eq_none (by simp; omega)]

/-- Two states with the same BUF and power-on content read the same. -/
theorem bufByte_congr {s t : State} (hb : t.buf = s.buf) (hl : t.launch = s.launch) (a : Nat) :
    bufByte t a = bufByte s a := by
  simp [bufByte, hb, hl]

/-- A byte after a host write. -/
theorem bufByte_bufWrite (s : State) (a x : Nat) (b : Byte) :
    bufByte (bufWrite a b s) x = if x = a then b else bufByte s x := by
  simp [bufByte, Memory.get?_set]; split <;> rfl

/-- The `k`-th free byte of an abort. -/
theorem drawBytes_getD (d n k : Nat) (h : k < n) : (drawBytes d n).getD k 0 = Config.drawByte (d + k) := by
  induction n generalizing d k with
  | zero => omega
  | succ n ih =>
    cases k with
    | zero => simp [drawBytes]
    | succ k =>
      have := ih (d + 1) k (by omega)
      simp only [drawBytes, List.getD_cons_succ, this]; congr 1; omega

end Sys2Proof.Machine
end

