-- ==== Sys2Proof/Laws/Exec.lean ====
section
/-! SUPPORT. The decoder and the commands: what `exec` answers, on an early error and otherwise. -/

namespace Sys2Proof.Machine

open Sys2Proof

/-! ## Decoding -/

theorem decode_encode (i : Instr) : decode (encode i) = .ok i := by cases i <;> decide

/-- A latched opcode is the command it came from (R54, R147). -/
theorem latched_of_opc {s : State} {i : Instr} (h : s.opc = opcode i) : latched s = .ok i := by
  rw [latched, h]; exact decode_encode i

/-- Two states with the same OPC have the same command latched. -/
theorem latched_congr {s t : State} (h : t.opc = s.opc) : latched t = latched s := by rw [latched, latched, h]

theorem runningBuffer_of {s : State} {i : Instr} (hb : s.busy = true) (hl : latched s = .ok i)
    (hi : isBuffer i = true) : runningBuffer s = some i := by
  simp [runningBuffer, hb, hl, hi]

theorem runningBuffer_of_idle {s : State} (hb : s.busy = false) : runningBuffer s = none := by
  simp [runningBuffer, hb]

/-- The running buffer command is busy, latched and a buffer command. -/
theorem runningBuffer_eq_some {s : State} {i : Instr} (h : runningBuffer s = some i) :
    s.busy = true ∧ latched s = .ok i ∧ isBuffer i = true := by
  unfold runningBuffer at h
  split at h
  next hb =>
    split at h
    next j hj =>
      split at h
      next hi => cases h; exact ⟨hb, hj, hi⟩
      next => cases h
    next => cases h
  next => cases h

/-! ## What a command answers -/

/-- An early error is reported and nothing else is done (R342, R344). -/
theorem exec_of_earlyError {i : Instr} {s : State} {c : ErrorCode} (h : earlyError i s = some c) :
    exec i s = .next (raiseError i c s) := by
  cases i
  case keyExpand | primS | primL | primLp | primT | primTp => cases h
  case encBlock | decBlock => simp [exec, execEncBlock, execDecBlock, blockCommand, h]
  case ecbEnc | ecbDec | ctrXform => simp [exec, execEcbEnc, execEcbDec, execCtrXform, h]

theorem exec_encBlock {s : State} (h : earlyError .encBlock s = none) :
    exec .encBlock s
      = .next (complete { datapathFinish .encBlock s with dout := sm4Words (subkeyMux s.rk false) s.din }) := by
  simp [exec, execEncBlock, blockCommand, h, eFwd, sm4Block]

theorem exec_decBlock {s : State} (h : earlyError .decBlock s = none) :
    exec .decBlock s
      = .next (complete { datapathFinish .decBlock s with dout := sm4Words (subkeyMux s.rk true) s.din }) := by
  simp [exec, execDecBlock, blockCommand, h, eRev, sm4Block]

theorem exec_ecbEnc {s : State} (h : earlyError .ecbEnc s = none) :
    exec .ecbEnc s
      = .next (complete
          { datapathFinish .ecbEnc s with
            buf := memWrite s.buf s.dst.toNat (ecbEncBytes s)
            outlen := BitVec.ofNat 32 (outMax .ecbEnc s) }) := by
  simp [exec, execEcbEnc, h]

/-- ECB_DEC with in-range padding (R272, R274). -/
theorem exec_ecbDec {s : State} (h : earlyError .ecbDec s = none) (hv : unpadValue s ≤ s.len.toNat) :
    exec .ecbDec s
      = .next (complete
          { datapathFinish .ecbDec s with
            buf := memWrite s.buf s.dst.toNat (ecbDecBytes s)
            outlen := BitVec.ofNat 32 (s.len.toNat - unpadValue s) }) := by
  have hv' : ¬ s.len.toNat < unpadValue s := by omega
  simp [exec, execEcbDec, h, hv']

/-- ECB_DEC whose last byte exceeds LEN (R274). -/
theorem exec_ecbDec_unpad {s : State} (h : earlyError .ecbDec s = none) (hv : s.len.toNat < unpadValue s) :
    exec .ecbDec s
      = .next (raiseError .ecbDec .unpad
          { datapathFinish .ecbDec s with buf := memWrite s.buf s.dst.toNat (ecbDecBytes s) }) := by
  simp [exec, execEcbDec, h, hv]

theorem exec_ctrXform {s : State} (h : earlyError .ctrXform s = none) :
    exec .ctrXform s
      = .next (complete
          { datapathFinish .ctrXform s with
            buf := memWrite s.buf s.dst.toNat (ctrBytes s)
            outlen := s.len }) := by
  simp [exec, execCtrXform, h]

/-! ## The bytes a buffer command writes -/

theorem ecbEncBytes_length (s : State) : (ecbEncBytes s).length = outMax .ecbEnc s := by
  rw [ecbEncBytes, mapBlocks_length (eFwd_length s.rk)]
  have := padLen_spec s.len.toNat
  simp only [outMax]; omega

theorem ecbDecBytes_length (s : State) (h : s.len.toNat % 16 = 0) : (ecbDecBytes s).length = s.len.toNat := by
  rw [ecbDecBytes, mapBlocks_length (eRev_length s.rk)]; omega

theorem ctrBytes_length (s : State) : (ctrBytes s).length = s.len.toNat := by
  rw [ctrBytes, xorBlocks_length (keystream_length s)] <;> simp [blocksOf]
  omega

/-! ## The early checks -/

@[simp] theorem errorIf_eq_none {c : Bool} {e : ErrorCode} : errorIf c e = none ↔ c = false := by
  cases c <;> simp [errorIf]

@[simp] theorem errorIf_eq_some {c : Bool} {e e' : ErrorCode} :
    errorIf c e = some e' ↔ c = true ∧ e = e' := by
  cases c <;> simp [errorIf]

/-- No early error of ECB_ENC: subkeys, both regions inside BUF, no forbidden overlap (R86, R87, R151). -/
theorem earlyError_ecbEnc_eq_none {s : State} :
    earlyError .ecbEnc s = none ↔ s.rkValid = true
      ∧ outOfRange s.cfg.memBytes s.src.toNat s.len.toNat s.dst.toNat (outMax .ecbEnc s) = false
      ∧ overlap s.src.toNat s.len.toNat s.dst.toNat (outMax .ecbEnc s) = false := by
  simp [earlyError, keyError, regionError, Option.or_eq_none_iff]

theorem earlyError_ecbDec_eq_none {s : State} :
    earlyError .ecbDec s = none ↔ s.rkValid = true ∧ (s.len.toNat ≠ 0 ∧ s.len.toNat % 16 = 0)
      ∧ outOfRange s.cfg.memBytes s.src.toNat s.len.toNat s.dst.toNat s.len.toNat = false
      ∧ overlap s.src.toNat s.len.toNat s.dst.toNat s.len.toNat = false := by
  simp [earlyError, keyError, lenError, regionError, Option.or_eq_none_iff, outMax]

theorem earlyError_ctrXform_eq_none {s : State} :
    earlyError .ctrXform s = none ↔ s.rkValid = true
      ∧ (outOfRange s.cfg.memBytes s.src.toNat s.len.toNat s.dst.toNat s.len.toNat = false
        ∧ overlap s.src.toNat s.len.toNat s.dst.toNat s.len.toNat = false)
      ∧ ctrError s = none := by
  simp [earlyError, keyError, regionError, Option.or_eq_none_iff, outMax]

/-- A buffer command that passes its checks has its destination inside BUF; the others have no region. -/
theorem outMax_fits {i : Instr} {s : State} (he : earlyError i s = none) :
    outMax i s = 0 ∨ s.dst.toNat + outMax i s ≤ s.cfg.memBytes := by
  cases i
  case ecbEnc =>
    have := (earlyError_ecbEnc_eq_none.1 he).2.1
    simp [outOfRange] at this; omega
  case ecbDec =>
    have := (earlyError_ecbDec_eq_none.1 he).2.2.1
    simp [outOfRange] at this; simp [outMax]; omega
  case ctrXform =>
    have := (earlyError_ctrXform_eq_none.1 he).2.1.1
    simp [outOfRange] at this; simp [outMax]; omega
  all_goals left; rfl

/-! ## All that a command can do -/

/-- Everything a command can do: report an early error, or end the datapath and write its results (the values are in
the lemmas above). -/
theorem exec_cases {i : Instr} {s t : State} (h : exec i s = .next t) :
    (∃ c, earlyError i s = some c ∧ t = raiseError i c s)
    ∨ (earlyError i s = none ∧ ∃ d bs o rk rv p e ec,
        t = { datapathFinish i s with
          busy := false, done := true, dout := d, buf := memWrite s.buf s.dst.toNat bs, outlen := o
          rk := rk, rkValid := rv, pout := p, err := e, errcode := ec }
        ∧ bs.length = outMax i s
        ∧ (o = s.outlen ∨ o.toNat ≤ outMax i s)
        ∧ ((rk = s.rk ∧ rv = s.rkValid) ∨ (i = .keyExpand ∧ rk = keySchedule s.key ∧ rv = true))
        ∧ ((e = s.err ∧ ec = s.errcode) ∨ (i = .ecbDec ∧ e = true ∧ ec = 7))) := by
  cases he : earlyError i s with
  | some c => rw [exec_of_earlyError he] at h; cases h; exact .inl ⟨c, rfl, rfl⟩
  | none =>
    refine .inr ⟨rfl, ?_⟩
    cases i
    case encBlock =>
      rw [exec_encBlock he] at h; cases h
      exact ⟨_, [], s.outlen, s.rk, s.rkValid, s.pout, s.err, s.errcode, by rw [datapathFinish_frame]; rfl, rfl,
        .inl rfl, .inl ⟨rfl, rfl⟩, .inl ⟨rfl, rfl⟩⟩
    case decBlock =>
      rw [exec_decBlock he] at h; cases h
      exact ⟨_, [], s.outlen, s.rk, s.rkValid, s.pout, s.err, s.errcode, by rw [datapathFinish_frame]; rfl, rfl,
        .inl rfl, .inl ⟨rfl, rfl⟩, .inl ⟨rfl, rfl⟩⟩
    case ecbEnc =>
      rw [exec_ecbEnc he] at h; cases h
      exact ⟨s.dout, ecbEncBytes s, _, s.rk, s.rkValid, s.pout, s.err, s.errcode, by rw [datapathFinish_frame]; rfl,
        ecbEncBytes_length s, .inr (by simp; omega), .inl ⟨rfl, rfl⟩, .inl ⟨rfl, rfl⟩⟩
    case ctrXform =>
      rw [exec_ctrXform he] at h; cases h
      exact ⟨s.dout, ctrBytes s, _, s.rk, s.rkValid, s.pout, s.err, s.errcode, by rw [datapathFinish_frame]; rfl,
        ctrBytes_length s, .inr (by simp [outMax]), .inl ⟨rfl, rfl⟩, .inl ⟨rfl, rfl⟩⟩
    case keyExpand =>
      cases h
      exact ⟨s.dout, [], s.outlen, _, _, s.pout, s.err, s.errcode, rfl, rfl, .inl rfl, .inr ⟨rfl, rfl, rfl⟩,
        .inl ⟨rfl, rfl⟩⟩
    case ecbDec =>
      have hl := ecbDecBytes_length s (earlyError_ecbDec_eq_none.1 he).2.1.2
      by_cases hu : unpadValue s ≤ s.len.toNat
      · rw [exec_ecbDec he hu] at h; cases h
        exact ⟨s.dout, ecbDecBytes s, _, s.rk, s.rkValid, s.pout, s.err, s.errcode,
          by rw [datapathFinish_frame]; rfl, hl, .inr (by simp [outMax]; omega), .inl ⟨rfl, rfl⟩, .inl ⟨rfl, rfl⟩⟩
      · rw [exec_ecbDec_unpad he (by omega)] at h; cases h
        exact ⟨s.dout, ecbDecBytes s, 0, s.rk, s.rkValid, s.pout, true, 7, by rw [datapathFinish_frame]; rfl, hl,
          .inr (by simp), .inl ⟨rfl, rfl⟩, .inr ⟨rfl, rfl, rfl⟩⟩
    all_goals
      cases h
      exact ⟨s.dout, [], s.outlen, s.rk, s.rkValid, _, s.err, s.errcode, rfl, rfl, .inl rfl, .inl ⟨rfl, rfl⟩,
        .inl ⟨rfl, rfl⟩⟩

end Sys2Proof.Machine
end

