-- ==== Sys2Proof/Laws/Congr.lean ====
section
/-! SUPPORT. What the functions of a state read: two states that agree on the operands, the subkeys, BUF and the
parameters give the same early errors, blocks and result bytes, and the same datapath. -/

namespace Sys2Proof.Machine

open Sys2Proof

/-- `t` has the operands, parameters, subkeys and BUF of `s`: all that a command but KEY_EXPAND reads (R36: KEY is
read by KEY_EXPAND alone; N_LANES is read by none). -/
structure SameOperands (s t : State) : Prop where
  memBytes : t.cfg.memBytes = s.cfg.memBytes
  ctrOvfPolicy : t.cfg.ctrOvfPolicy = s.cfg.ctrOvfPolicy
  rkValid : t.rkValid = s.rkValid
  din : t.din = s.din
  ctr : t.ctr = s.ctr
  src : t.src = s.src
  dst : t.dst = s.dst
  len : t.len = s.len
  rk : t.rk = s.rk
  buf : t.buf = s.buf
  launch : t.launch = s.launch

theorem SameOperands.refl (s : State) : SameOperands s s := by constructor <;> rfl

section
variable {s t : State}

theorem SameOperands.bufByte_eq (h : SameOperands s t) (a : Nat) : bufByte t a = bufByte s a :=
  bufByte_congr h.buf h.launch a

theorem SameOperands.memRead_eq (h : SameOperands s t) (a n : Nat) : memRead t a n = memRead s a n :=
  memRead_congr a n fun x _ _ => h.bufByte_eq x

theorem SameOperands.sourceBytes_eq (h : SameOperands s t) : sourceBytes t = sourceBytes s := by
  rw [sourceBytes, sourceBytes, h.memRead_eq, h.src, h.len]

theorem SameOperands.outMax_eq (h : SameOperands s t) (i : Instr) : outMax i t = outMax i s := by
  cases i <;> simp [outMax, h.len]

theorem SameOperands.counter0_eq (h : SameOperands s t) : counter0 t = counter0 s := by
  rw [counter0, counter0, h.ctr]

theorem SameOperands.earlyError_eq (h : SameOperands s t) (i : Instr) : earlyError i t = earlyError i s := by
  cases i <;>
    simp only [earlyError, keyError, lenError, regionError, ctrError, h.outMax_eq, h.counter0_eq, h.memBytes,
      h.ctrOvfPolicy, h.rkValid, h.src, h.dst, h.len]

theorem SameOperands.blockCount_eq (h : SameOperands s t) (i : Instr) : blockCount i t = blockCount i s := by
  cases i <;> simp only [blockCount, h.outMax_eq, h.len]

theorem SameOperands.blockWords_eq (h : SameOperands s t) (i : Instr) (k : Nat) :
    blockWords i k t = blockWords i k s := by
  cases i <;> simp only [blockWords, h.sourceBytes_eq, h.counter0_eq, h.din]

theorem SameOperands.runsBlocks_eq (h : SameOperands s t) (i : Instr) : runsBlocks i t = runsBlocks i s := by
  simp only [runsBlocks, h.earlyError_eq, h.blockCount_eq]

theorem SameOperands.keystream_eq (h : SameOperands s t) : keystream t = keystream s := by
  funext k; rw [keystream, keystream, h.counter0_eq, h.rk]

theorem SameOperands.ecbEncBytes_eq (h : SameOperands s t) : ecbEncBytes t = ecbEncBytes s := by
  rw [ecbEncBytes, ecbEncBytes, h.outMax_eq, h.sourceBytes_eq, h.rk]

theorem SameOperands.ecbDecBytes_eq (h : SameOperands s t) : ecbDecBytes t = ecbDecBytes s := by
  rw [ecbDecBytes, ecbDecBytes, h.sourceBytes_eq, h.rk, h.len]

theorem SameOperands.unpadValue_eq (h : SameOperands s t) : unpadValue t = unpadValue s := by
  rw [unpadValue, unpadValue, h.ecbDecBytes_eq, h.len]

theorem SameOperands.ctrBytes_eq (h : SameOperands s t) : ctrBytes t = ctrBytes s := by
  rw [ctrBytes, ctrBytes, h.sourceBytes_eq, h.keystream_eq, h.len]

end

/-! ## The datapath -/

/-- The hidden datapath registers of two states agree. -/
structure SameDatapath (s t : State) : Prop where
  xw : t.xw = s.xw
  rnd : t.rnd = s.rnd
  dir : t.dir = s.dir
  fsel : t.fsel = s.fsel
  bi : t.bi = s.bi
  cw : t.cw = s.cw

theorem SameOperands.datapathStart {s t : State} (h : SameOperands s t) (hd : SameDatapath s t) (i : Instr)
    (hk : i = .keyExpand → t.key = s.key) :
    SameDatapath (datapathStart i s) (datapathStart i t) := by
  unfold Machine.datapathStart
  rw [h.runsBlocks_eq]
  split
  next hi => exact ⟨by simp [hk hi], rfl, hd.dir, rfl, hd.bi, hd.cw⟩
  · split
    · constructor <;> simp [h.blockWords_eq, h.counter0_eq, hd.bi, hd.cw]
    · exact hd

theorem SameOperands.datapathStep {s t : State} (h : SameOperands s t) (hd : SameDatapath s t) (i : Instr) :
    SameDatapath (datapathStep i s) (datapathStep i t) := by
  have hr : SameDatapath (datapathRound s) (datapathRound t) := by
    constructor <;> simp [roundKey, h.rk, hd.xw, hd.rnd, hd.dir, hd.fsel, hd.bi, hd.cw]
  unfold Machine.datapathStep
  rw [h.runsBlocks_eq, h.blockCount_eq, hd.rnd, hd.bi]
  repeat' split
  case isTrue.isFalse.isTrue => constructor <;> simp [h.blockWords_eq, h.counter0_eq, hd.bi, hd.cw]
  all_goals first | exact hr | exact hd

theorem SameOperands.datapathFinish {s t : State} (h : SameOperands s t) (hd : SameDatapath s t) (i : Instr)
    (hk : i = .keyExpand → t.key = s.key) :
    SameDatapath (datapathFinish i s) (datapathFinish i t) := by
  unfold Machine.datapathFinish
  rw [h.runsBlocks_eq, h.blockCount_eq]
  split
  next hi => exact ⟨by simp [hk hi], rfl, hd.dir, rfl, hd.bi, hd.cw⟩
  · split
    · constructor <;> simp [h.blockWords_eq, h.counter0_eq, h.rk, hd.bi, hd.cw]
    · exact hd

/-- A state with its hidden datapath registers replaced by those of either of two that agree. -/
theorem withDatapathOf_congr {s d e : State} (h : SameDatapath d e) : withDatapathOf s e = withDatapathOf s d := by
  simp [withDatapathOf, h.xw, h.rnd, h.dir, h.fsel, h.bi, h.cw]

/-! ## Internal steps change no result -/

theorem sameOperands_datapathStep (i : Instr) (s : State) : SameOperands s (datapathStep i s) := by
  constructor <;> simp

/-- The registers at the end of a command do not depend on a state of the datapath in between. -/
theorem datapathFinish_datapathStep (i : Instr) (s : State) :
    datapathFinish i (datapathStep i s) = datapathFinish i s := by
  have so := sameOperands_datapathStep i s
  unfold datapathFinish
  rw [so.runsBlocks_eq, so.blockCount_eq]
  split
  next h =>
    subst h
    rw [datapathStep_frame]
    unfold datapathStep
    simp only [if_true]
    split <;> rfl
  next h =>
    split
    next hr =>
      simp only [loadBlock, so.blockWords_eq, so.counter0_eq, so.rk]
      have hb : isBuffer i = false → (datapathStep i s).bi = s.bi := by
        intro hb; unfold datapathStep; repeat' split
        all_goals first | rfl | simp [hb]
      have hc : i ≠ .ctrXform → (datapathStep i s).cw = s.cw := by
        intro hc; unfold datapathStep; repeat' split
        all_goals first | rfl | simp [hc]
      conv => lhs; rw [datapathStep_frame]
      simp only [withDatapathOf, State.mk.injEq, true_and, and_true]
      constructor
      · cases h : isBuffer i with
        | true => rfl
        | false => simp [hb h]
      · by_cases h : i = .ctrXform
        · simp [h]
        · simp [h, hc h]
    next hr => rw [datapathStep, if_neg h, if_neg hr]

end Sys2Proof.Machine
end

