-- ==== Sys2Proof/Laws/PerInstr.lean ====
section
/-! SUPPORT. Per instruction: the command word of R112 carries the command's OP and nothing else, is well formed, and
decodes to the command. -/

namespace Sys2Proof.Laws.EncodingRoundTrip

open Sys2Proof

/-- The word of `i` is well formed (R111, R113), has RSV = 0 and the OP of R112, and decodes to `i` (R119). -/
def Statement (i : Instr) : Prop :=
  i.wellFormed = true ∧ wellFormedWord (encode i) = true ∧ (encode i).extractLsb' 4 28 = 0#28
    ∧ (encode i).extractLsb' 0 4 = opcode i ∧ decode (encode i) = .ok i

theorem keyExpand : Statement .keyExpand := by unfold Statement; decide
theorem encBlock : Statement .encBlock := by unfold Statement; decide
theorem decBlock : Statement .decBlock := by unfold Statement; decide
theorem ecbEnc : Statement .ecbEnc := by unfold Statement; decide
theorem ecbDec : Statement .ecbDec := by unfold Statement; decide
theorem ctrXform : Statement .ctrXform := by unfold Statement; decide
theorem primS : Statement .primS := by unfold Statement; decide
theorem primL : Statement .primL := by unfold Statement; decide
theorem primLp : Statement .primLp := by unfold Statement; decide
theorem primT : Statement .primT := by unfold Statement; decide
theorem primTp : Statement .primTp := by unfold Statement; decide

end Sys2Proof.Laws.EncodingRoundTrip
end

