-- ==== Sys2Proof/Laws/Step.lean ====
section
/-! SUPPORT. What one step can do: the inversion lemmas of `step`, `perform`, the host operations, acceptance, and the
resets. -/

namespace Sys2Proof.Machine

open Sys2Proof

/-! ## The next event -/

theorem step_of_agenda {s : State} {e : Event} {rest : List Event} (h : s.agenda = e :: rest) :
    step s = perform e { s with agenda := rest } := by
  simp [step, nextEvent, takeEvent, h]

theorem step_of_idle {s : State} (hb : s.busy = false) (h : s.agenda = []) : step s = .next s := by
  simp [step, nextEvent, hb, h]

theorem step_of_busy {s : State} (hb : s.busy = true) (h : s.agenda = []) : step s = engineLast s := by
  have e : takeEvent s = s := by rw [takeEvent, h, List.tail_nil, ← h]
  simp [step, nextEvent, hb, h, e, perform]

/-- A step either has no event and changes nothing, or performs the next event. -/
theorem step_cases {s t : State} (h : step s = .next t) :
    (nextEvent s = none ∧ t = s) ∨ ∃ e, nextEvent s = some e ∧ perform e (takeEvent s) = .next t := by
  unfold step at h
  split at h
  next e he => exact .inr ⟨e, he, h⟩
  next he => cases h; exact .inl ⟨he, rfl⟩

/-! ## Engine steps -/

theorem engineLast_of_latched {s : State} {i : Instr} (hb : s.busy = true) (hl : latched s = .ok i) :
    engineLast s = exec i s := by
  simp [engineLast, hb, hl]

theorem engineStep_of_latched {s : State} {i : Instr} (hb : s.busy = true) (hl : latched s = .ok i) :
    engineStep s = datapathStep i s := by
  simp [engineStep, hb, hl]

/-- An internal step is a datapath step of the latched command, or nothing. -/
theorem engineStep_cases (s : State) :
    engineStep s = s ∨ ∃ i, s.busy = true ∧ latched s = .ok i ∧ engineStep s = datapathStep i s := by
  unfold engineStep
  split
  next hb =>
    split
    next i hi => exact .inr ⟨i, hb, hi, rfl⟩
    next => exact .inl rfl
  next => exact .inl rfl

/-- The engine's last step, when it answers a next state: nothing while idle, else the latched command. -/
theorem engineLast_cases {s t : State} (h : engineLast s = .next t) :
    (s.busy = false ∧ t = s) ∨ ∃ i, s.busy = true ∧ latched s = .ok i ∧ exec i s = .next t := by
  unfold engineLast at h
  split at h
  next hb =>
    split at h
    next i hi => exact .inr ⟨i, hb, hi, h⟩
    next => cases h
  next hb => cases h; exact .inl ⟨by simpa using hb, rfl⟩

/-! ## Register accesses -/

theorem busOffset_legal (c : Config) {off : Nat} (h4 : off % 4 = 0) (h : off < 0x100) :
    busOffset c 32 (c.regBase + off) = some off := by
  have h2 : c.regBase + off - c.regBase = off := by omega
  simp [busOffset, h2, h4, h]

theorem busOffset_eq_some {c : Config} {size addr off : Nat} (h : busOffset c size addr = some off) :
    size = 32 ∧ addr = c.regBase + off ∧ off < 0x100 ∧ off % 4 = 0 := by
  unfold busOffset at h
  split at h
  next hc => cases h; omega
  next => cases h

/-- A host operation that answers a next state: the reset input is released, and it is one of the four operations within
the contract. -/
theorem hostStep_cases {op : HostOp} {s t : State} (h : hostStep op s = .next t) :
    s.rstAsserted = false ∧
      ((∃ off, op = .regRead 32 (s.cfg.regBase + off) ∧ off < 0x100 ∧ off % 4 = 0 ∧ t = regRead off s)
      ∨ (∃ off v, op = .regWrite 32 (s.cfg.regBase + off) v ∧ off < 0x100 ∧ off % 4 = 0 ∧ t = regWrite off v s)
      ∨ (∃ a, op = .bufRead a ∧ a < s.cfg.memBytes ∧ t = bufRead a s)
      ∨ (∃ a b, op = .bufWrite a b ∧ a < s.cfg.memBytes ∧ busySource s a = false ∧ busyDestination s a = false
          ∧ t = bufWrite a b s)) := by
  unfold hostStep at h
  split at h
  next => cases h
  next hr =>
    refine ⟨by simpa using hr, ?_⟩
    cases op with
    | regRead size addr =>
      simp only [hostAccess, registerAccess] at h
      split at h
      next off ho =>
        obtain ⟨rfl, rfl, h1, h2⟩ := busOffset_eq_some ho
        cases h; exact .inl ⟨off, rfl, h1, h2, rfl⟩
      next => cases h
    | regWrite size addr v =>
      simp only [hostAccess, registerAccess] at h
      split at h
      next off ho =>
        obtain ⟨rfl, rfl, h1, h2⟩ := busOffset_eq_some ho
        cases h; exact .inr (.inl ⟨off, v, rfl, h1, h2, rfl⟩)
      next => cases h
    | bufRead a =>
      simp only [hostAccess] at h
      split at h
      next ha => cases h; exact .inr (.inr (.inl ⟨a, rfl, ha, rfl⟩))
      next => cases h
    | bufWrite a b =>
      simp only [hostAccess] at h
      split at h
      next ha =>
        split at h
        next => cases h
        next hs =>
          cases h
          simp only [Bool.or_eq_true, not_or, Bool.not_eq_true] at hs
          exact .inr (.inr (.inr ⟨a, b, rfl, ha, hs.1, hs.2, rfl⟩))
      next => cases h

/-- What a register write does: CMD, STATUS, CTRL, an operand while idle, or nothing (R142). -/
theorem regWrite_cases (off : Nat) (v : Word) (s : State) :
    (regAt off = .cmd ∧ regWrite off v s = cmdWrite v s)
    ∨ (regAt off = .status ∧ regWrite off v s = statusWrite v s)
    ∨ (regAt off = .ctrl ∧ regWrite off v s = ctrlWrite v s)
    ∨ (s.busy = false ∧ ∃ k, regWrite off v s = { s with key := k, rkValid := false })
    ∨ (s.busy = false ∧ ∃ d c a b l p,
        regWrite off v s = { s with din := d, ctr := c, src := a, dst := b, len := l, pin := p })
    ∨ regWrite off v s = s := by
  unfold regWrite
  split
  case h_1 h => exact .inl ⟨h, rfl⟩
  case h_2 h => exact .inr (.inl ⟨h, rfl⟩)
  case h_3 h => exact .inr (.inr (.inl ⟨h, rfl⟩))
  case h_4 i h =>
    cases hb : s.busy with
    | false => exact .inr (.inr (.inr (.inl ⟨rfl, _, by rw [operandWrite, hb]; rfl⟩)))
    | true => exact .inr (.inr (.inr (.inr (.inr (by rw [operandWrite, hb]; rfl)))))
  case h_5 | h_6 | h_7 | h_8 | h_9 | h_10 =>
    cases hb : s.busy with
    | false => exact .inr (.inr (.inr (.inr (.inl
        ⟨rfl, _, _, _, _, _, _, by rw [operandWrite, hb]; rfl⟩))))
    | true => exact .inr (.inr (.inr (.inr (.inr (by rw [operandWrite, hb]; rfl)))))
  all_goals exact .inr (.inr (.inr (.inr (.inr rfl))))

/-- What a CMD write does: OVR while busy; an error or an acceptance while idle (R147, R148). -/
theorem cmdWrite_cases (w : Word) (s : State) :
    (s.busy = true ∧ cmdWrite w s = { s with ovr := true })
    ∨ (s.busy = false ∧ ∃ e, decode w = .error e
        ∧ cmdWrite w s = { s with done := true, err := true, errcode := 1 })
    ∨ (s.busy = false ∧ ∃ i, decode w = .ok i
        ∧ cmdWrite w s = acceptCommand i { s with done := false, err := false, errcode := 0 }) := by
  unfold cmdWrite
  cases hb : s.busy with
  | true => exact .inl ⟨rfl, rfl⟩
  | false =>
    cases hd : decode w with
    | error e => exact .inr (.inl ⟨rfl, e, rfl, rfl⟩)
    | ok i => exact .inr (.inr ⟨rfl, i, rfl, rfl⟩)

/-! ## Reset -/

theorem hasResetValues_resetRegisters (s : State) : HasResetValues (resetRegisters s) := by
  constructor
  case rk => intro i hi; simp [rkAt, State.reset, hi]
  all_goals rfl

theorem hasResetValues_softReset (s : State) : HasResetValues (softReset s) :=
  hasResetValues_resetRegisters _

theorem hasResetValues_hardwareReset (p : Bool) (s : State) : HasResetValues (hardwareReset p s) := by
  have h := hasResetValues_resetRegisters (abort s)
  cases p
  all_goals
    constructor
    case rk => exact h.rk
    all_goals rfl

/-- An abort changes BUF and the draw counter only. -/
theorem abort_frame (s : State) : abort s = { s with buf := (abort s).buf, draws := (abort s).draws } := by
  unfold abort; split <;> rfl

theorem abort_of_runningBuffer {s : State} {i : Instr} (h : runningBuffer s = some i) :
    abort s = { s with
      buf := memWrite s.buf s.dst.toNat (drawBytes s.draws (destinationBytes i s))
      draws := s.draws + destinationBytes i s } := by
  simp [abort, h]

theorem abort_of_no_buffer {s : State} (h : runningBuffer s = none) : abort s = s := by
  simp [abort, h]

theorem abort_cfg (s : State) : (abort s).cfg = s.cfg := by rw [abort_frame]

theorem abort_launch (s : State) : (abort s).launch = s.launch := by rw [abort_frame]

theorem abort_agenda (s : State) : (abort s).agenda = s.agenda := by rw [abort_frame]

/-- An abort keeps the canonical form of BUF. -/
theorem abort_wf {s : State} (h : s.buf.wf = true) : (abort s).buf.wf = true := by
  unfold abort
  split
  · exact Memory.wf_memWrite h _ _
  · exact h

/-- An abort writes only bytes BUF has. -/
theorem abort_inside {s : State} (h : ∀ c ∈ s.buf, c.1 < s.cfg.memBytes) :
    ∀ c ∈ (abort s).buf, c.1 < s.cfg.memBytes := by
  unfold abort
  split
  · intro c hc
    rcases mem_memWrite hc with hh | hh
    · simp [destinationBytes] at hh; omega
    · exact h c hh
  · exact h

/-! ## Steps of the host -/

/-- A legal register read is one step (R141). -/
theorem step_regRead {s : State} {off : Nat} {rest : List Event} (hr : s.rstAsserted = false) (h4 : off % 4 = 0)
    (h : off < 0x100) (ha : s.agenda = .host (.regRead 32 (s.cfg.regBase + off)) :: rest) :
    step s = .next (regRead off { s with agenda := rest }) := by
  rw [step_of_agenda ha]
  simp [perform, hostStep, hr, hostAccess, registerAccess, busOffset_legal s.cfg h4 h]

/-- A legal register write is one step (R142). -/
theorem step_regWrite {s : State} {off : Nat} {v : Word} {rest : List Event} (hr : s.rstAsserted = false)
    (h4 : off % 4 = 0) (h : off < 0x100) (ha : s.agenda = .host (.regWrite 32 (s.cfg.regBase + off) v) :: rest) :
    step s = .next (regWrite off v { s with agenda := rest }) := by
  rw [step_of_agenda ha]
  simp [perform, hostStep, hr, hostAccess, registerAccess, busOffset_legal s.cfg h4 h]

theorem perform_bufRead {s : State} {a : Nat} (hr : s.rstAsserted = false) (h : a < s.cfg.memBytes) :
    perform (.host (.bufRead a)) s = .next (bufRead a s) := by
  simp [perform, hostStep, hr, hostAccess, h]

theorem perform_bufWrite {s : State} {a : Nat} {b : Byte} (hr : s.rstAsserted = false) (h : a < s.cfg.memBytes) :
    perform (.host (.bufWrite a b)) s =
      if busySource s a || busyDestination s a then .refused (.hostWriteIntoBusyRegion a)
      else .next (bufWrite a b s) := by
  simp [perform, hostStep, hr, hostAccess, h]

/-! ## The register map -/

theorem regAt_key (i : Fin 4) : regAt (0x010 + 4 * i.val) = .key i := by decide +revert

theorem regAt_din (i : Fin 4) : regAt (0x020 + 4 * i.val) = .din i := by decide +revert

theorem regAt_dout (i : Fin 4) : regAt (0x030 + 4 * i.val) = .dout i := by decide +revert

theorem regAt_ctr (i : Fin 4) : regAt (0x040 + 4 * i.val) = .ctr i := by decide +revert

theorem regAt_rk (i : Fin 32) : regAt (0x080 + 4 * i.val) = .rk i := by decide +kernel +revert

/-- The offsets of CMD, STATUS and CTRL, each the only one. -/
theorem regAt_control : ∀ off < 0x100, off % 4 = 0 →
    (regAt off = .cmd → off = 0x004) ∧ (regAt off = .status → off = 0x008) ∧ (regAt off = .ctrl → off = 0x00C) := by
  decide +kernel

/-! ## Runs -/

theorem core_run_succ {k : Nat} {s t : State} (h : step s = .next t) : core.run (k + 1) s = core.run k t := by
  have h' : core.step s = .next t := h
  simp only [Host.Core.run, h']

theorem core_run_one (s : State) : core.run 1 s = step s := by
  have h' : core.step s = step s := rfl
  cases h : step s <;> simp only [Host.Core.run, h', h] <;> rfl

end Sys2Proof.Machine
end

