-- ==== Sys2Proof/Tests/Slice0.lean ====
section
/-! SUPPORT. Tests: ill-formed terms, the decoding of words written out bit by bit, vectors of spec/95_test_vectors.md, and
for every statement with hypotheses a state and operands that meet them (`witness_…`). -/

namespace Sys2Proof.Tests

open Sys2Proof Sys2Proof.Machine

/-! ## Helpers -/

/-- The std key of 95_test_vectors.md. -/
def stdKey : Quad := ⟨0x01234567, 0x89ABCDEF, 0xFEDCBA98, 0x76543210⟩

/-- Reset, then the std key expanded (the registers of V-KS-1). -/
def ready : State := { State.reset with key := stdKey, rk := keySchedule stdKey, rkValid := true }

/-- MEM_BYTES = 1024, as V-ECB-3 and V-CTR-3 take it. -/
def kib : Config := { Config.taken with memBytes := 1024 }

/-- `bs` at address 0 of BUF. -/
def bufOf (bs : List Byte) : Memory := memWrite [] 0 bs

/-- The bytes `a, a + 1, …`. -/
def rising (a n : Nat) : List Byte := (List.range n).map fun k => BitVec.ofNat 8 (a + k)

/-- The next state, if there is one, passes the check. -/
def nextIs (r : Host.Outcome State Fault Refusal) (p : State → Bool) : Bool :=
  match r with
  | .next t => p t
  | .fault _ => false
  | .refused _ => false

/-- A buffer command running from `ready`, source [0, 20), destination at 0x100. -/
def running (i : Instr) : State :=
  { ready with busy := true, opc := opcode i, dst := 0x100, len := 20, buf := bufOf (rising 0 20) }

/-- The state with one event to come. -/
def facing (e : Event) (s : State) : State := { s with agenda := [e] }

/-! ## Well-formedness: the ill-formed terms -/

/-- R111: RSV must be 0. -/
theorem test_wf_word_rsv : wellFormedWord 0b00000000000000000000000000010001#32 = false := by decide
/-- R113: OP 0x7 and OP 0xD are reserved. -/
theorem test_wf_word_op :
    wellFormedWord 0b0111#32 = false ∧ wellFormedWord 0b1101#32 = false ∧ wellFormedWord 0b1100#32 = true := by decide
/-- R8: MEM_BYTES is a power of two from 16 to 2^31. -/
theorem test_wf_config_memBytes : ∀ n ∈ [8, 48, 2 ^ 32], Config.wellFormed { Config.taken with memBytes := n } = false := by
  decide
/-- R8: REG_BASE is 256-byte aligned. -/
theorem test_wf_config_regBase : Config.wellFormed { Config.taken with regBase := 4 } = false := by decide
/-- R8: at least one lane. -/
theorem test_wf_config_nLanes : Config.wellFormed { Config.taken with nLanes := 0 } = false := by decide
theorem test_wf_config_taken : Config.taken.wellFormed = true ∧ kib.wellFormed = true := by decide

/-! ## Decoding: each word bit by bit, RSV(31:4) then OP(3:0) (R110, R112) -/

theorem test_decode_keyExpand : decode 0b00000000000000000000000000000001#32 = .ok .keyExpand := by decide
theorem test_decode_encBlock : decode 0b00000000000000000000000000000010#32 = .ok .encBlock := by decide
theorem test_decode_decBlock : decode 0b00000000000000000000000000000011#32 = .ok .decBlock := by decide
theorem test_decode_ecbEnc : decode 0b00000000000000000000000000000100#32 = .ok .ecbEnc := by decide
theorem test_decode_ecbDec : decode 0b00000000000000000000000000000101#32 = .ok .ecbDec := by decide
theorem test_decode_ctrXform : decode 0b00000000000000000000000000000110#32 = .ok .ctrXform := by decide
theorem test_decode_primS : decode 0b00000000000000000000000000001000#32 = .ok .primS := by decide
theorem test_decode_primL : decode 0b00000000000000000000000000001001#32 = .ok .primL := by decide
theorem test_decode_primLp : decode 0b00000000000000000000000000001010#32 = .ok .primLp := by decide
theorem test_decode_primT : decode 0b00000000000000000000000000001011#32 = .ok .primT := by decide
theorem test_decode_primTp : decode 0b00000000000000000000000000001100#32 = .ok .primTp := by decide
/-- R113: the highest RSV bit alone makes a word illegal. -/
theorem test_decode_rsv : decode 0b10000000000000000000000000000001#32 = .error .reservedBits := by decide
theorem test_decodeTableWord : decodeTableWord 32 0xC = some .primTp ∧ decodeTableWord 32 0x7 = none := by decide

/-! ## Commands: vectors of 95_test_vectors.md -/

/-- V-KS-1, V-KS-3: RK[0], RK[4], RK[31] and STATUS, as one step. -/
theorem test_keyExpand_std :
    nextIs (step (({ State.reset with key := stdKey } : State).withFetchWord 32 0x1)) (fun t =>
      rkAt t.rk 0 == 0xF12186F9 && rkAt t.rk 4 == 0x367360F4 && rkAt t.rk 31 == 0x9124A012
        && statusWord t == 0x0000000A) = true := by decide +kernel
/-- V-KS-2, the all-zero key. -/
theorem test_keyExpand_zero :
    nextIs (exec .keyExpand State.reset) (fun t => rkAt t.rk 3 == 0xAADDE0E1 && rkAt t.rk 31 == 0xA16CA108) = true := by
  decide +kernel
/-- V-BLK-2, fifth row. -/
theorem test_encBlock :
    nextIs (step (({ ready with din := ⟨0x00010203, 0x04050607, 0x08090A0B, 0x0C0D0E0F⟩ } : State).withFetchWord 32 0x2))
      (fun t => t.dout == ⟨0x06989C61, 0x3DA668AD, 0x2A8DF782, 0xE1A8F96A⟩ && statusWord t == 0x0000000A) = true := by
  decide +kernel
/-- V-BLK-3: no subkeys. -/
theorem test_encBlock_nokey : nextIs (step (State.reset.withFetchWord 32 0x2))
    (fun t => statusWord t == 0x00000206 && t.dout == Quad.zero) = true := by decide +kernel
/-- V-BLK-2, third row. -/
theorem test_decBlock :
    nextIs (step (({ ready with din := stdKey } : State).withFetchWord 32 0x3))
      (fun t => t.dout == ⟨0x9338375E, 0x82EEC1CB, 0xBEF65EDF, 0x8757A631⟩) = true := by decide +kernel
/-- V-ECB-1, LEN = 20. -/
theorem test_ecbEnc_20 :
    nextIs (exec .ecbEnc { ready with dst := 0x100, len := 20, buf := bufOf (rising 0 20) }) (fun t =>
      memRead t 0x100 4 == [0x06, 0x98, 0x9C, 0x61] && memRead t 0x110 4 == [0x86, 0x32, 0x72, 0xCC]
        && memRead t 0x11C 4 == [0xA1, 0x36, 0x16, 0xA4] && t.outlen == 32) = true := by decide +kernel
/-- V-ECB-3: OUTMAX = 32 does not fit. -/
theorem test_ecbEnc_range :
    nextIs (step (({ ready with cfg := kib, dst := 0x3F0, len := 16 } : State).withFetchWord 32 0x4))
      (fun t => statusWord t == 0x0000040E && t.outlen == 0) = true := by decide +kernel
/-- V-ECB-2, third row: v = 17 exceeds LEN = 16; D is written. -/
theorem test_ecbDec_unpad :
    nextIs (exec .ecbDec { ready with
        dst := 0x100, len := 16
        buf := bufOf [0x9B, 0x89, 0xC4, 0x38, 0x21, 0x15, 0x7E, 0x5F, 0xDA, 0x57, 0x65, 0x85, 0x8C, 0xC6, 0x94, 0x2D] })
      (fun t => statusWord t == 0x0000070E && t.outlen == 0 && memRead t 0x10E 2 == [0x00, 0x11]) = true := by
  decide +kernel
/-- V-ECB-2, second row: malformed padding, v = 3. -/
theorem test_ecbDec_malformed :
    nextIs (exec .ecbDec { ready with
        dst := 0x100, len := 16
        buf := bufOf [0xAA, 0xDC, 0x41, 0x55, 0xC3, 0xA7, 0x89, 0xF8, 0xCA, 0xF6, 0x68, 0x95, 0xF0, 0x4C, 0xE3, 0x3C] })
      (fun t => statusWord t == 0x0000000A && t.outlen == 13 && memRead t 0x100 16 == rising 0 15 ++ [0x03]) = true := by
  decide +kernel
/-- V-CTR-1: a 32-bit carry, LEN = 21, in place. -/
theorem test_ctrXform_carry :
    nextIs (exec .ctrXform { ready with ctr := ⟨0, 0, 0, 0xFFFFFFFF⟩, len := 21, buf := bufOf (rising 0x30 21) })
      (fun t => memRead t 0 2 == [0x26, 0x05] && memRead t 15 6 == [0xD0, 0x1F, 0xFE, 0x23, 0xC2, 0x21]
        && t.ctr == ⟨0, 0, 0, 0xFFFFFFFF⟩ && t.outlen == 21) = true := by decide +kernel
/-- V-CTR-1: C0 = 2^128 − 1 and LEN = 17 under FAULT. -/
theorem test_ctrXform_overflow :
    nextIs (exec .ctrXform { ready with ctr := ⟨0xFFFFFFFF, 0xFFFFFFFF, 0xFFFFFFFF, 0xFFFFFFFF⟩, len := 17 })
      (fun t => statusWord t == 0x0000060E && t.outlen == 0) = true := by decide +kernel
/-- V-PRIM, PIN = 9E3779B9. -/
theorem test_prim_table :
    let out (i : Instr) (v : Word) := nextIs (exec i { State.reset with pin := 0x9E3779B9 }) fun t => t.pout == v
    out .primS 0xB19536FF ∧ out .primL 0x64743683 ∧ out .primLp 0xADCF51C3 ∧ out .primT 0x075540A5
      ∧ out .primTp 0x68920A56 := by decide +kernel
/-- V-PRIM, PIN = 000000AB. -/
theorem test_prim_table_AB :
    let out (i : Instr) (v : Word) := nextIs (exec i { State.reset with pin := 0x000000AB }) fun t => t.pout == v
    out .primS 0xD6D6D6AB ∧ out .primL 0xA9AEAE07 ∧ out .primLp 0x559560AB ∧ out .primT 0x27AEAED2
      ∧ out .primTp 0x59E8C71A := by decide +kernel

/-! ## Host interface: V-CMD -/

/-- V-CMD 1, 8, 10: ID; KEY reads 0; a reserved offset reads 0. -/
theorem test_read_constants :
    (∀ off ∈ [0x010, 0x070], nextIs (step (facing (.host (.regRead 32 off)) ready))
      (fun t => t.responses == [.reg off 0]) = true)
    ∧ nextIs (step (facing (.host (.regRead 32 0x000)) ready)) (fun t => t.responses == [.reg 0 0x534D3401]) = true := by
  decide +kernel
/-- V-CMD 2 and 3: an illegal CMD word. -/
theorem test_cmd_illegal :
    let after (w : Word) := nextIs (step (facing (.host (.regWrite 32 0x004 w)) State.reset)) fun t =>
      statusWord t == 0x00000106
    after 0x00000007 = true ∧ after 0x00000011 = true := by
  decide +kernel
/-- V-CMD 13: SRST takes precedence over IE. -/
theorem test_ctrl_srst :
    nextIs (step (facing (.host (.regWrite 32 0x00C 3)) ready)) (fun t => !t.ie && !t.rkValid && rkAt t.rk 0 == 0) = true := by
  decide +kernel

/-! ## Witnesses: a state and operands that meet each statement's hypotheses -/

theorem witness_SoftResetAbortsTheRunningCommand :
    let e : Event := .host (.regWrite 32 0x00C 2)
    let s := facing e (running .ecbEnc)
    s.rstAsserted = false ∧ (2#32).getLsbD 1 = true ∧ s.agenda = .host (.regWrite 32 (s.cfg.regBase + 0x00C) 2) :: []
      ∧ s.busy = true ∧ latched s = .ok .ecbEnc ∧ isBuffer .ecbEnc = true
      ∧ 0x11F < s.cfg.memBytes ∧ (s.dst.toNat ≤ 0x100 ∧ 0x11F < s.dst.toNat + outMax .ecbEnc s)
      ∧ ¬(s.dst.toNat ≤ 0xFF) ∧ ¬(0x120 < s.dst.toNat + outMax .ecbEnc s)
      ∧ (facing e ready).busy = false
      ∧ latched (facing e (running .primS)) = .ok .primS ∧ isBuffer .primS = false := by decide

theorem witness_HardwareResetInput : ∀ powerOn : Bool,
    let s := facing (.resetAssert powerOn) (running .ctrXform)
    s.agenda = .resetAssert powerOn :: [] ∧ s.busy = true ∧ latched s = .ok .ctrXform ∧ isBuffer .ctrXform = true
      ∧ 0x113 < s.cfg.memBytes ∧ (s.dst.toNat ≤ 0x100 ∧ 0x113 < s.dst.toNat + outMax .ctrXform s)
      ∧ ¬(0x114 < s.dst.toNat + outMax .ctrXform s) ∧ ready.busy = false := by decide

theorem witness_StepRunsTheLatchedCommand :
    decode 0x4#32 = .ok .ecbEnc ∧ (running .ecbEnc).busy = true ∧ (running .ecbEnc).opc = (0x4#32).extractLsb' 0 4
      ∧ (facing .engineLast (running .ecbEnc)).agenda = .engineLast :: [] ∧ (running .ecbEnc).agenda = [] := by decide

theorem witness_StepRunsThePresentedWord :
    decodeTableWord 32 0xC = some .primTp ∧ decodeTableWord 4 0x1 = some .keyExpand ∧ decodeTableWord 32 0xD = none := by
  decide

theorem witness_TauSubstitutesBytesIndependently :
    (0x01234567#32).extractLsb' (8 * 3) 8 = (0x01FFFFFF#32).extractLsb' (8 * 3) 8
      ∧ (0x01234567#32).extractLsb' (8 * 0) 8 = (0x00000067#32).extractLsb' (8 * 0) 8 := by decide

theorem witness_PrimTransformsAreCompositions : ∀ s : State,
    ∃ t u v u' v', exec .primS s = .next t ∧ exec .primL { t with pin := t.pout } = .next u ∧ exec .primT s = .next v
      ∧ exec .primLp { t with pin := t.pout } = .next u' ∧ exec .primTp s = .next v' :=
  fun _ => ⟨_, _, _, _, _, rfl, rfl, rfl, rfl, rfl⟩

/-- The sequence of R221 for a key: `rk[0..35]`. -/
def rkSequence (key : Quad) (i : Nat) : Word := (keyWindow key i).w0

theorem rkSequence_recurrence (key : Quad) (i : Nat) :
    rkSequence key (i + 4) = rkSequence key i
      ^^^ diffLp (tau (rkSequence key (i + 1) ^^^ rkSequence key (i + 2) ^^^ rkSequence key (i + 3) ^^^ ck i)) := rfl

theorem witness_KeyScheduleFollowsTheRecurrence : ∀ key : Quad,
    rkSequence key 0 = key.w0 ^^^ 0xA3B1BAC6#32 ∧ rkSequence key 1 = key.w1 ^^^ 0x56AA3350#32
      ∧ rkSequence key 2 = key.w2 ^^^ 0x677D9197#32 ∧ rkSequence key 3 = key.w3 ^^^ 0xB27022DC#32
      ∧ ∀ i, i < 32 → rkSequence key (i + 4) = rkSequence key i
        ^^^ diffLp (tau (rkSequence key (i + 1) ^^^ rkSequence key (i + 2) ^^^ rkSequence key (i + 3) ^^^ ck i)) :=
  fun key => ⟨rfl, rfl, rfl, rfl, fun i _ => rkSequence_recurrence key i⟩

/-- The BUSY clauses of the PRIM statements need an idle state. -/
theorem witness_PrimStatements : ready.busy = false := rfl

theorem witness_KeyExpandFillsTheSubkeyFile :
    (∃ t u, exec .keyExpand ready = .next t ∧ exec .keyExpand t = .next u) ∧ ready.busy = false :=
  ⟨⟨_, _, rfl, rfl⟩, rfl⟩

/-- The hypotheses of KeyDatapathRefinesTheSchedule, for the std key and for 0 and 32 rounds. -/
theorem witness_KeyDatapathRefinesTheSchedule :
    (rkSequence ready.key 0 = ready.key.w0 ^^^ 0xA3B1BAC6#32 ∧ rkSequence ready.key 1 = ready.key.w1 ^^^ 0x56AA3350#32
      ∧ rkSequence ready.key 2 = ready.key.w2 ^^^ 0x677D9197#32 ∧ rkSequence ready.key 3 = ready.key.w3 ^^^ 0xB27022DC#32
      ∧ ∀ i, i < 32 → rkSequence ready.key (i + 4) = rkSequence ready.key i ^^^ diffLp (tau (rkSequence ready.key (i + 1)
        ^^^ rkSequence ready.key (i + 2) ^^^ rkSequence ready.key (i + 3) ^^^ ck i)))
    ∧ ∃ t, exec .keyExpand ready = .next t :=
  ⟨witness_KeyScheduleFollowsTheRecurrence ready.key, _, rfl⟩

/-- The sequence X of R241 for an input window and round keys. -/
def xSequence (sk : Nat → Word) (x : Quad) (i : Nat) : Word := (window transT sk x i).w0

theorem witness_BlockTransformIsTheRoundIteration : ∀ sk : Nat → Word,
    let b : List Byte := rising 0 16
    let X := xSequence sk (wordsOf b)
    b.length = 16
      ∧ (∀ j, j < 4 → X j = (b.getD (4 * j) 0) ++ (b.getD (4 * j + 1) 0) ++ (b.getD (4 * j + 2) 0) ++ (b.getD (4 * j + 3) 0))
      ∧ ∀ i, i < 32 → X (i + 4) = X i ^^^ diffL (tau (X (i + 1) ^^^ X (i + 2) ^^^ X (i + 3) ^^^ sk i)) := by
  intro sk b X
  refine ⟨rfl, fun j hj => ?_, fun i _ => rfl⟩
  interval_cases j <;> rfl

theorem witness_BlockTransformsAreInverse : (rising 0 16).length = 16 ∧ ready.rkValid = true := by decide

theorem witness_EncBlockEncryptsDin :
    ready.busy = false ∧ ready.rkValid = true ∧ State.reset.rkValid = false := by decide

theorem witness_DecBlockDecryptsDin :
    ready.busy = false ∧ ready.rkValid = true ∧ State.reset.rkValid = false := by decide

/-- The hypotheses of BlockDatapathRefinesTheTransform, for both commands. -/
theorem witness_BlockDatapathRefinesTheTransform : ∀ i ∈ [Instr.encBlock, .decBlock],
    let X := xSequence (fun r => rkAt ready.rk (if i = .decBlock then 31 - r else r)) ready.din
    ready.rkValid = true ∧ X 0 = ready.din.w0 ∧ X 1 = ready.din.w1 ∧ X 2 = ready.din.w2 ∧ X 3 = ready.din.w3
      ∧ (∀ r, r < 32 → X (r + 4) = X r ^^^ diffL (tau (X (r + 1) ^^^ X (r + 2) ^^^ X (r + 3)
        ^^^ rkAt ready.rk (if i = .decBlock then 31 - r else r))))
      ∧ ∃ t, exec i ready = .next t := by
  intro i hi X
  refine ⟨rfl, rfl, rfl, rfl, rfl, fun r _ => rfl, ?_⟩
  fin_cases hi
  · exact ⟨_, exec_encBlock rfl⟩
  · exact ⟨_, exec_decBlock rfl⟩

/-- `ready` with 1024 bytes of BUF and the regions of a buffer command. -/
def regions (src dst n : Nat) : State :=
  { ready with cfg := kib, src := BitVec.ofNat 32 src, dst := BitVec.ofNat 32 dst, len := BitVec.ofNat 32 n }

/-- ECB_ENC's hypotheses. Success: an empty source, in place, regions that only touch, a destination ending at MEM_BYTES.
ERR_RANGE: a destination, then a source, one byte too long. ERR_OVERLAP: one shared byte. -/
theorem witness_EcbEncEncryptsThePaddedSource :
    let p (s : State) := 16 - s.len.toNat % 16
    let outside (s : State) : Prop :=
      s.cfg.memBytes < s.src.toNat + s.len.toNat ∨ s.cfg.memBytes < s.dst.toNat + (s.len.toNat + p s)
    let overlaps (s : State) : Prop := 0 < s.len.toNat ∧ s.src.toNat ≠ s.dst.toNat
      ∧ s.src.toNat < s.dst.toNat + (s.len.toNat + p s) ∧ s.dst.toNat < s.src.toNat + s.len.toNat
    let succeeds (s : State) : Prop := s.cfg.wellFormed = true ∧ ¬outside s ∧ ¬overlaps s
    ready.busy = false ∧ State.reset.rkValid = false ∧ (regions 0 0 0).rkValid = true
      ∧ succeeds (regions 0 0 0) ∧ succeeds (regions 256 256 20) ∧ succeeds (regions 0 16 16)
      ∧ succeeds (regions 0 0x3F0 15)
      ∧ outside (regions 0 0x3F1 15) ∧ outside (regions 0x3F1 0 16)
      ∧ ¬outside (regions 31 0 16) ∧ overlaps (regions 31 0 16) := by
  decide

/-- ECB_DEC's hypotheses. Success: in place, regions that only touch, a destination ending at MEM_BYTES. ERR_LEN: LEN 0 and
20. ERR_RANGE: a destination, then a source, one byte too long. ERR_OVERLAP: one shared byte. -/
theorem witness_EcbDecDecryptsAndUnpads :
    let badLen (s : State) : Prop := s.len.toNat = 0 ∨ s.len.toNat % 16 ≠ 0
    let outside (s : State) : Prop :=
      s.cfg.memBytes < s.src.toNat + s.len.toNat ∨ s.cfg.memBytes < s.dst.toNat + s.len.toNat
    let overlaps (s : State) : Prop := s.src.toNat ≠ s.dst.toNat
      ∧ s.src.toNat < s.dst.toNat + s.len.toNat ∧ s.dst.toNat < s.src.toNat + s.len.toNat
    let succeeds (s : State) : Prop := ¬badLen s ∧ ¬outside s ∧ ¬overlaps s
    ready.busy = false ∧ State.reset.rkValid = false ∧ (regions 0 0 16).rkValid = true
      ∧ succeeds (regions 256 256 32) ∧ succeeds (regions 0 16 16) ∧ succeeds (regions 0 0x3F0 16)
      ∧ badLen (regions 0 0x100 0) ∧ badLen (regions 0 0x100 20)
      ∧ (¬badLen (regions 0 0x3F1 16) ∧ outside (regions 0 0x3F1 16)) ∧ outside (regions 0x3F1 0 16)
      ∧ ¬badLen (regions 0 15 16) ∧ ¬outside (regions 0 15 16) ∧ overlaps (regions 0 15 16) := by
  decide

/-- ECB_DEC's two ends: the last byte decrypted is 3 ≤ LEN, and 17 > LEN. -/
theorem witness_EcbDecDecryptsAndUnpads_ends :
    let ends (block : List Byte) (p : State → Bool) : Bool :=
      nextIs (exec .ecbDec { ready with dst := 0x100, len := 16, buf := bufOf block }) p
    ends [0xAA, 0xDC, 0x41, 0x55, 0xC3, 0xA7, 0x89, 0xF8, 0xCA, 0xF6, 0x68, 0x95, 0xF0, 0x4C, 0xE3, 0x3C]
        (fun t => (bufByte t 0x10F).toNat == 3) = true
      ∧ ends [0x9B, 0x89, 0xC4, 0x38, 0x21, 0x15, 0x7E, 0x5F, 0xDA, 0x57, 0x65, 0x85, 0x8C, 0xC6, 0x94, 0x2D]
        (fun t => (bufByte t 0x10F).toNat == 17) = true := by
  decide +kernel

/-- CTR_XFORM's hypotheses, with the counter at 2^128 − 1 throughout. Success: an empty source, one block, WRAP past the
last counter. ERR_CTR_OVF: one byte past the last block under FAULT. ERR_RANGE and ERR_OVERLAP at one byte. -/
theorem witness_CtrXformXorsTheKeystream :
    let last (s : State) : State := { s with ctr := ⟨0xFFFFFFFF, 0xFFFFFFFF, 0xFFFFFFFF, 0xFFFFFFFF⟩ }
    let wrap (s : State) : State := { s with cfg := { kib with ctrOvfPolicy := .wrap } }
    let c0 (s : State) :=
      s.ctr.w0.toNat * 2 ^ 96 + s.ctr.w1.toNat * 2 ^ 64 + s.ctr.w2.toNat * 2 ^ 32 + s.ctr.w3.toNat
    let outside (s : State) : Prop :=
      s.cfg.memBytes < s.src.toNat + s.len.toNat ∨ s.cfg.memBytes < s.dst.toNat + s.len.toNat
    let overlaps (s : State) : Prop := 0 < s.len.toNat ∧ s.src.toNat ≠ s.dst.toNat
      ∧ s.src.toNat < s.dst.toNat + s.len.toNat ∧ s.dst.toNat < s.src.toNat + s.len.toNat
    let overflows (s : State) : Prop := 0 < s.len.toNat ∧ 2 ^ 128 - 1 < c0 s + (s.len.toNat + 15) / 16 - 1
    let succeeds (s : State) : Prop :=
      ¬outside s ∧ ¬overlaps s ∧ (overflows s → s.cfg.ctrOvfPolicy = .wrap)
    ready.busy = false ∧ State.reset.rkValid = false ∧ (regions 0 0 0).rkValid = true
      ∧ succeeds (last (regions 0 0x100 0)) ∧ succeeds (last (regions 0 0x100 16))
      ∧ (succeeds (wrap (last (regions 0 0x100 17))) ∧ overflows (wrap (last (regions 0 0x100 17))))
      ∧ (¬outside (last (regions 0 0x100 17)) ∧ ¬overlaps (last (regions 0 0x100 17))
        ∧ overflows (last (regions 0 0x100 17)) ∧ (last (regions 0 0x100 17)).cfg.ctrOvfPolicy = .fault)
      ∧ outside (regions 0 0x3F2 15) ∧ outside (regions 0x3F2 0 15)
      ∧ ¬outside (regions 0 14 15) ∧ overlaps (regions 0 14 15) := by
  decide

/-- EcbRoundTrip: 20 bytes encrypted to 0x100, then decrypted in place. -/
theorem witness_EcbRoundTrip :
    let s : State := { ready with dst := 0x100, len := 20, buf := bufOf (rising 0 20) }
    s.cfg.wellFormed = true ∧ earlyError .ecbEnc s = none
      ∧ ∃ t, exec .ecbEnc s = .next t ∧ earlyError .ecbDec { t with src := t.dst, dst := 0x100, len := t.outlen } = none := by
  exact ⟨by decide, by decide +kernel, _, exec_ecbEnc (by decide +kernel), by decide +kernel⟩

/-- CtrXformIsSelfInverse: 21 bytes, in place both times. -/
theorem witness_CtrXformIsSelfInverse :
    let s : State := { ready with len := 21, buf := bufOf (rising 0x30 21) }
    earlyError .ctrXform s = none
      ∧ ∃ t, exec .ctrXform s = .next t ∧ earlyError .ctrXform { t with src := t.dst, dst := 0 } = none := by
  exact ⟨by decide +kernel, _, exec_ctrXform (by decide +kernel), by decide +kernel⟩

theorem witness_SubkeysAreRequired : State.reset.rkValid = false := by decide

/-- FirstErrorInPriorityOrderIsReported and FailedCommandsChangeOnlyTheRecord: from a state without a recorded error a command
completes, without an error, with an early one and with ERR_UNPAD; an illegal word while idle. -/
theorem witness_FirstErrorInPriorityOrderIsReported :
    (ready.err = false ∧ ready.errcode = 0 ∧ ∃ t, exec .encBlock ready = .next t)
    ∧ (State.reset.err = false ∧ State.reset.errcode = 0 ∧ ∃ t, exec .ecbDec State.reset = .next t ∧ t.err = true)
    ∧ State.reset.busy = false ∧ decode 0x80000001#32 = .error .reservedBits :=
  ⟨⟨rfl, rfl, _, exec_encBlock rfl⟩, ⟨rfl, rfl, _, exec_of_earlyError (c := .nokey) rfl, rfl⟩, rfl, by decide⟩

theorem witness_FailedCommandsChangeOnlyTheRecord :
    nextIs (exec .ecbDec State.reset) (fun t => t.err && t.errcode == 2) = true
    ∧ (let s : State := { ready with
        dst := 0x100, len := 16
        buf := bufOf [0x9B, 0x89, 0xC4, 0x38, 0x21, 0x15, 0x7E, 0x5F, 0xDA, 0x57, 0x65, 0x85, 0x8C, 0xC6, 0x94, 0x2D] }
      s.err = false ∧ nextIs (exec .ecbDec s) (fun t => t.err && t.errcode == 7) = true) := by
  decide +kernel

/-- ErrorsOfEachCommand: a command that records an error from a state without one; an illegal word while idle. -/
theorem witness_ErrorsOfEachCommand :
    (∃ t, exec .ctrXform State.reset = .next t ∧ State.reset.err = false ∧ t.err = true)
    ∧ (∃ t, exec .encBlock State.reset = .next t ∧ t.err = true)
    ∧ State.reset.busy = false ∧ decode 0x7#32 = .error (.reservedOpcode 0x7) :=
  ⟨⟨_, exec_of_earlyError (c := .nokey) rfl, rfl, rfl⟩, ⟨_, exec_of_earlyError (c := .nokey) rfl, rfl⟩, rfl, by decide⟩

/-- CommandsTouchOnlyTheirRegions: the bytes just outside the destination, a command with no region, and a BUF that differs
just after the source. -/
theorem witness_CommandsTouchOnlyTheirRegions :
    (∃ t, exec .ecbEnc (running .ecbEnc) = .next t)
    ∧ ¬(isBuffer .ecbEnc = true ∧ (running .ecbEnc).dst.toNat ≤ 0x120
        ∧ 0x120 < (running .ecbEnc).dst.toNat + outMax .ecbEnc (running .ecbEnc))
    ∧ ¬(isBuffer .ecbEnc = true ∧ (running .ecbEnc).dst.toNat ≤ 0xFF) ∧ isBuffer .primS = false
    ∧ (let m : Memory := bufOf (rising 0 20 ++ [0xEE])
      m ≠ (running .ecbEnc).buf ∧ (∀ a, a < 20 → (running .ecbEnc).src.toNat ≤ a →
        bufByte { running .ecbEnc with buf := m } a = bufByte (running .ecbEnc) a)
      ∧ (running .ecbEnc).src.toNat + (running .ecbEnc).len.toNat = 20)
    ∧ earlyError .ecbEnc (running .ecbEnc) = none :=
  ⟨⟨_, exec_ecbEnc (by decide +kernel)⟩, by decide, by decide, rfl, by decide +kernel, by decide +kernel⟩

theorem witness_AcceptanceOfACommandWord :
    ready.busy = false ∧ decode 0x11#32 = .error .reservedBits ∧ decode 0xC#32 = .ok .primTp := by decide

theorem witness_CommandWriteWhileBusyOnlySetsOvr :
    let s := facing (.host (.regWrite 32 0x004 0x7)) (running .primT)
    s.rstAsserted = false ∧ s.busy = true ∧ s.agenda = .host (.regWrite 32 (s.cfg.regBase + 0x004) 0x7) :: [] := by
  decide

/-- OvrStaysUntilClearedOrReset: OVR = 1 before and 0 after, in each of its three ways. -/
theorem witness_OvrStaysUntilClearedOrReset :
    ∀ e ∈ [Event.host (.regWrite 32 0x008 0x10), .host (.regWrite 32 0x00C 2), .resetAssert false],
    let s := facing e { ready with ovr := true }
    s.ovr = true ∧ nextIs (step s) (fun t => !t.ovr) = true := by decide +kernel

/-- The first and the last offset of each clause of RegisterReadMap, read while idle and while busy. -/
theorem witness_RegisterReadMap :
    ∀ off ∈ [0x000, 0x004, 0x008, 0x00C, 0x010, 0x01C, 0x020, 0x02C, 0x030, 0x03C, 0x040, 0x04C, 0x050, 0x054, 0x058, 0x05C,
      0x060, 0x064, 0x068, 0x07C, 0x080, 0x0FC],
    ∀ s ∈ [ready, running .ecbEnc],
    let s' := facing (.host (.regRead 32 off)) s
    s'.rstAsserted = false ∧ off % 4 = 0 ∧ off < 0x100
      ∧ s'.agenda = .host (.regRead 32 (s'.cfg.regBase + off)) :: [] := by decide +kernel

/-- The first and the last offset of each clause of RegisterWriteMap, written while idle and while busy. -/
theorem witness_RegisterWriteMap :
    ∀ off ∈ [0x000, 0x004, 0x008, 0x00C, 0x010, 0x01C, 0x020, 0x02C, 0x030, 0x03C, 0x040, 0x04C, 0x050, 0x054, 0x058, 0x05C,
      0x060, 0x064, 0x0FC],
    ∀ s ∈ [ready, running .ecbEnc],
    let s' := facing (.host (.regWrite 32 off 3)) s
    s'.rstAsserted = false ∧ off % 4 = 0 ∧ off < 0x100
      ∧ s'.agenda = .host (.regWrite 32 (s'.cfg.regBase + off) 3) :: [] := by decide +kernel

/-- IllegalAccessIsABusError: a narrow, a misaligned, a too high and, with a higher REG_BASE, a too low access. -/
theorem witness_IllegalAccessIsABusError :
    ∀ x ∈ [(0, 16, 0), (0, 32, 2), (0, 32, 0x100), (0x100, 32, 0xFC)],
    let s := facing (.host (.regRead x.2.1 x.2.2)) { ready with cfg := { kib with regBase := x.1 } }
    s.rstAsserted = false ∧ (x.2.1 ≠ 32 ∨ x.2.2 < s.cfg.regBase ∨ s.cfg.regBase + 0x100 ≤ x.2.2
      ∨ (x.2.2 - s.cfg.regBase) % 4 ≠ 0) ∧ s.agenda = .host (.regRead x.2.1 x.2.2) :: [] := by decide

/-- OperandsAreProtectedWhileBusy: the first and the last offset of each range, and writes to STATUS and CTRL. -/
theorem witness_OperandsAreProtectedWhileBusy :
    (∀ off ∈ [0x010, 0x02C, 0x040, 0x058, 0x060],
      let s := facing (.host (.regWrite 32 off 1)) (running .ecbEnc)
      s.rstAsserted = false ∧ s.busy = true ∧ off % 4 = 0
        ∧ ((0x010 ≤ off ∧ off < 0x030) ∨ (0x040 ≤ off ∧ off ≤ 0x058) ∨ off = 0x060)
        ∧ s.agenda = .host (.regWrite 32 (s.cfg.regBase + off) 1) :: [])
    ∧ (∀ off ∈ [0x008, 0x00C],
      let s := facing (.host (.regWrite 32 off 2)) (running .ecbEnc)
      s.rstAsserted = false ∧ s.busy = true ∧ s.agenda = .host (.regWrite 32 (s.cfg.regBase + off) 2) :: []
        ∧ nextIs (step s) (fun _ => true) = true) := by decide +kernel

/-- BufAccessWhileIdle: the last address of BUF, read and written. -/
theorem witness_BufAccessWhileIdle :
    ready.rstAsserted = false ∧ ready.busy = false ∧ 65535 < ready.cfg.memBytes
      ∧ (facing (.host (.bufRead 65535)) ready).agenda = .host (.bufRead 65535) :: []
      ∧ (facing (.host (.bufWrite 65535 1)) ready).agenda = .host (.bufWrite 65535 1) :: [] := by decide

/-- BufAccessWhileBusy: the edges of the destination [0x100, 0x120) and the source [0, 20) of ECB_ENC, and a command without
regions. -/
theorem witness_BufAccessWhileBusy :
    let s := facing (.host (.bufWrite 0x120 1)) (running .ecbEnc)
    let m := s.len.toNat + (16 - s.len.toNat % 16)
    s.rstAsserted = false ∧ s.busy = true ∧ latched s = .ok .ecbEnc ∧ 0x120 < s.cfg.memBytes
      ∧ s.agenda = .host (.bufWrite 0x120 1) :: []
      ∧ (facing (.host (.bufRead 0x100)) (running .ecbEnc)).agenda = .host (.bufRead 0x100) :: []
      ∧ (s.dst.toNat ≤ 0x100 ∧ 0x11F < s.dst.toNat + m) ∧ ¬(0x120 < s.dst.toNat + m)
      ∧ ¬(s.dst.toNat ≤ 0xFF) ∧ (s.src.toNat ≤ 0 ∧ 19 < s.src.toNat + s.len.toNat)
      ∧ ¬(20 < s.src.toNat + s.len.toNat)
      ∧ latched (running .primT) = .ok .primT ∧ (running .primT).busy = true
      ∧ Instr.primT ∉ [Instr.ecbEnc, .ecbDec, .ctrXform] := by decide

theorem witness_InterruptFollowsEnableAndDone :
    (2#32).getLsbD 1 = true ∧ ready.busy = false ∧ decode 0x8#32 = .ok .primS ∧ (0#32).getLsbD 0 = false
      ∧ (1#32).getLsbD 1 = false ∧ (1#32).getLsbD 0 = true ∧ ({ ready with done := true } : State).done = true := by decide

theorem witness_IdleHoldsAllState :
    State.reset.busy = false ∧ State.reset.agenda = []
      ∧ (facing .engineStep ready).busy = false ∧ (facing .engineStep ready).agenda = .engineStep :: []
      ∧ (facing .engineLast ready).agenda = .engineLast :: [] := by decide

/-- A busy state with the engine's invariant: a buffer command runs, the subkeys are valid, BUF holds bytes. -/
theorem engineInv_running : EngineInv (running .ecbEnc) := by
  constructor
  case busyLatched => exact fun _ => ⟨.ecbEnc, by decide⟩
  case subkeysOfKey => exact fun _ => rfl
  case bufInside => decide +kernel
  case heldInReset => intro h; cases h
  all_goals decide +kernel

theorem witness_StepKeepsTheEngineInvariant : EngineInv (running .ecbEnc) ∧ ∃ t, step (running .ecbEnc) = .next t :=
  ⟨engineInv_running, _, by
    rw [step_of_busy rfl rfl, engineLast_of_latched (i := .ecbEnc) rfl (by decide)]
    exact exec_ecbEnc (by decide +kernel)⟩

/-- A busy state with the datapath invariant: ENC_BLOCK just started, and a step of it. -/
theorem witness_StepKeepsTheDatapathInvariant :
    let s := facing .engineStep (datapathStart .encBlock (running .encBlock))
    DatapathInv s ∧ ∃ t, step s = .next t := by
  refine ⟨fun _ i hi => ?_, _, rfl⟩
  have : i = .encBlock := by
    have h : latched (facing .engineStep (datapathStart .encBlock (running .encBlock))) = .ok .encBlock := by decide
    rw [h] at hi; cases hi; rfl
  subst this
  exact ⟨nofun, fun _ => ⟨rfl, rfl, nofun, nofun, rfl⟩⟩

/-- ResultIsIndependentOfLatency: no internal step and three of them. -/
theorem witness_ResultIsIndependentOfLatency : ∀ n ∈ [0, 3],
    let s : State := { running .ecbEnc with agenda := List.replicate n .engineStep ++ [.engineLast] }
    s.busy = true ∧ latched s = .ok .ecbEnc ∧ s.agenda = List.replicate n .engineStep ++ .engineLast :: [] := by decide

theorem witness_StepStopsOnlyOutsideTheContract : EngineInv (running .ecbEnc) := engineInv_running

/-- BusyEndsOnlyByCompletionOrReset: PRIM_T completes, and a soft reset aborts it. -/
theorem witness_BusyEndsOnlyByCompletionOrReset :
    ∀ e ∈ [Event.engineLast, .host (.regWrite 32 0x00C 2)],
    (facing e (running .primT)).busy = true ∧ nextIs (step (facing e (running .primT))) (fun t => !t.busy) = true := by
  decide +kernel

/-- OnlyKeyExpandWritesTheSubkeys: RK_VALID rises when KEY_EXPAND completes. -/
theorem witness_OnlyKeyExpandWritesTheSubkeys :
    let s : State := { running .keyExpand with rkValid := false }
    s.rkValid = false ∧ nextIs (step s) (fun t => t.rkValid) = true := by decide +kernel

/-- ResultRegistersChangeOnlyByTheirCommands: a step of each kind of command, and a soft reset. -/
theorem witness_ResultRegistersChangeOnlyByTheirCommands :
    ∀ s ∈ [running .encBlock, running .ctrXform, running .primT, facing (.host (.regWrite 32 0x00C 2)) ready],
      nextIs (step s) (fun _ => true) = true := by decide +kernel

/-- KeyInfluencesNothingUntilExpanded: KEY_EXPAND running but not ending, and another command ending. -/
theorem witness_KeyInfluencesNothingUntilExpanded :
    (∃ t, step (facing .engineStep (running .keyExpand)) = .next t)
    ∧ nextEvent (facing .engineStep (running .keyExpand)) ≠ some .engineLast
    ∧ (∃ t, step (running .primT) = .next t) ∧ latched (running .primT) ≠ .ok .keyExpand :=
  ⟨⟨_, rfl⟩, by decide, ⟨_, rfl⟩, by decide⟩

theorem witness_ParametersAreFixedAndLanesUnobservable :
    (∃ t, step (running .primT) = .next t) ∧ ∃ t, exec .ecbEnc (running .ecbEnc) = .next t :=
  ⟨⟨_, rfl⟩, ⟨_, exec_ecbEnc (by decide +kernel)⟩⟩

end Sys2Proof.Tests
end

section
/-! # The parameters are fixed and the lanes unobservable (O59)

Every operation a step performs keeps `State.cfg` (R8); and a command reads of the parameters only MEM_BYTES and
CTR_OVF_POLICY, so N_LANES changes no answer (R277, R305, R356). -/

namespace Sys2Proof.Machine

open Sys2Proof

/-! ## The parameters under the host's operations and the resets -/

section
variable (s : State)

@[simp] theorem statusWrite_cfg (v : Word) : (statusWrite v s).cfg = s.cfg := rfl

@[simp] theorem regRead_cfg (off : Nat) : (regRead off s).cfg = s.cfg := rfl

@[simp] theorem bufRead_cfg (a : Nat) : (bufRead a s).cfg = s.cfg := by
  unfold bufRead; split <;> rfl

@[simp] theorem softReset_cfg : (softReset s).cfg = s.cfg := abort_cfg s

@[simp] theorem hardwareReset_cfg (powerOn : Bool) : (hardwareReset powerOn s).cfg = s.cfg := by
  cases powerOn <;> exact abort_cfg s

@[simp] theorem ctrlWrite_cfg (v : Word) : (ctrlWrite v s).cfg = s.cfg := by
  unfold ctrlWrite; split
  · exact softReset_cfg s
  · rfl

@[simp] theorem acceptCommand_cfg (i : Instr) : (acceptCommand i s).cfg = s.cfg := datapathStart_cfg i _

@[simp] theorem cmdWrite_cfg (w : Word) : (cmdWrite w s).cfg = s.cfg := by
  obtain ⟨-, h⟩ | ⟨-, e, -, h⟩ | ⟨-, i, -, h⟩ := cmdWrite_cases w s
  · rw [h]
  · rw [h]
  · rw [h, acceptCommand_cfg]

@[simp] theorem regWrite_cfg (off : Nat) (v : Word) : (regWrite off v s).cfg = s.cfg := by
  obtain ⟨-, h⟩ | ⟨-, h⟩ | ⟨-, h⟩ | ⟨-, k, h⟩ | ⟨-, d, c, a, b, l, p, h⟩ | h := regWrite_cases off v s
  · rw [h, cmdWrite_cfg]
  · rw [h, statusWrite_cfg]
  · rw [h, ctrlWrite_cfg]
  all_goals rw [h]

@[simp] theorem engineStep_cfg : (engineStep s).cfg = s.cfg := by
  obtain h | ⟨i, -, -, h⟩ := engineStep_cases s
  · rw [h]
  · rw [h, datapathStep_cfg]

end

/-! ## The parameters under a step -/

section
variable {s t : State}

/-- A command keeps the parameters. -/
theorem exec_cfg {i : Instr} (h : exec i s = .next t) : t.cfg = s.cfg := by
  obtain ⟨c, -, rfl⟩ | ⟨-, d, bs, o, rk, rv, p, e, ec, rfl, -⟩ := exec_cases h
  · exact raiseError_cfg i c s
  · exact datapathFinish_cfg i s

theorem engineLast_cfg (h : engineLast s = .next t) : t.cfg = s.cfg := by
  obtain ⟨-, rfl⟩ | ⟨i, -, -, he⟩ := engineLast_cases h
  · rfl
  · exact exec_cfg he

theorem hostStep_cfg {op : HostOp} (h : hostStep op s = .next t) : t.cfg = s.cfg := by
  obtain ⟨-, ⟨off, -, -, -, rfl⟩ | ⟨off, v, -, -, -, rfl⟩ | ⟨a, -, -, rfl⟩ | ⟨a, b, -, -, -, -, rfl⟩⟩ :=
    hostStep_cases h
  · exact regRead_cfg s off
  · exact regWrite_cfg s off v
  · exact bufRead_cfg s a
  · exact bufWrite_cfg a b s

theorem perform_cfg {e : Event} (h : perform e s = .next t) : t.cfg = s.cfg := by
  cases e with
  | host op => exact hostStep_cfg h
  | engineStep => cases h; exact engineStep_cfg s
  | engineLast => exact engineLast_cfg h
  | resetAssert powerOn => cases h; exact hardwareReset_cfg s powerOn
  | resetRelease => cases h; rfl

/-- Every step keeps the parameters (R8). -/
theorem step_cfg (h : step s = .next t) : t.cfg = s.cfg := by
  obtain ⟨-, rfl⟩ | ⟨e, -, he⟩ := step_cases h
  · rfl
  · rw [perform_cfg he, takeEvent_cfg]

end

/-! ## Another number of lanes -/

/-- `s` with N_LANES = `n`. -/
def withLanes (n : Nat) (s : State) : State := { s with cfg := { s.cfg with nLanes := n } }

section
variable (n : Nat) (s : State)

theorem sameOperands_withLanes : SameOperands s (withLanes n s) := by constructor <;> rfl

theorem sameDatapath_withLanes : SameDatapath s (withLanes n s) := by constructor <;> rfl

/-- The datapath at the end of a command is the same with another number of lanes. -/
theorem datapathFinish_withLanes (i : Instr) :
    datapathFinish i (withLanes n s) = withLanes n (datapathFinish i s) := by
  have hd := (sameOperands_withLanes n s).datapathFinish (sameDatapath_withLanes n s) i fun _ => rfl
  calc datapathFinish i (withLanes n s)
      = withDatapathOf (withLanes n s) (datapathFinish i s) := by
        rw [datapathFinish_frame, withDatapathOf_congr hd]
    _ = withLanes n (withDatapathOf s (datapathFinish i s)) := rfl
    _ = withLanes n (datapathFinish i s) := by rw [← datapathFinish_frame]

end

/-- A command answers the same state but for N_LANES whatever N_LANES is (R277, R305, R356): its early error, its
datapath and its result bytes read no lane count. -/
theorem exec_withLanes {i : Instr} {s t : State} (n : Nat) (h : exec i s = .next t) :
    exec i (withLanes n s) = .next (withLanes n t) := by
  have so := sameOperands_withLanes n s
  have hf := datapathFinish_withLanes n s i
  have hn := so.earlyError_eq i
  cases he : earlyError i s with
  | some c =>
    rw [exec_of_earlyError he] at h; cases h
    exact exec_of_earlyError (hn.trans he)
  | none =>
    rw [he] at hn
    cases i with
    | encBlock => rw [exec_encBlock he] at h; cases h; rw [exec_encBlock hn, hf]; rfl
    | decBlock => rw [exec_decBlock he] at h; cases h; rw [exec_decBlock hn, hf]; rfl
    | ecbEnc =>
      rw [exec_ecbEnc he] at h; cases h
      rw [exec_ecbEnc hn, hf, so.ecbEncBytes_eq, so.outMax_eq]; rfl
    | ecbDec =>
      by_cases hu : unpadValue s ≤ s.len.toNat
      · rw [exec_ecbDec he hu] at h; cases h
        rw [exec_ecbDec hn (by rwa [so.unpadValue_eq, so.len]), hf, so.ecbDecBytes_eq, so.unpadValue_eq]; rfl
      · rw [exec_ecbDec_unpad he (by omega)] at h; cases h
        rw [exec_ecbDec_unpad hn (by rw [so.unpadValue_eq, so.len]; omega), hf, so.ecbDecBytes_eq]; rfl
    | ctrXform =>
      rw [exec_ctrXform he] at h; cases h
      rw [exec_ctrXform hn, hf, so.ctrBytes_eq]; rfl
    | keyExpand | primS | primL | primLp | primT | primTp => cases h; rfl

/-- Settles O59: each event keeps the parameters, and a command reads no N_LANES. -/
theorem parametersAreFixedAndLanesUnobservable : Obligations.ParametersAreFixedAndLanesUnobservable := by
  refine ⟨fun s t h => step_cfg h, fun i s t n h => ?_⟩
  have hl := exec_withLanes n h
  rwa [withLanes, withLanes, exec_cfg h] at hl

end Sys2Proof.Machine
end

section
/-! # Every step keeps the engine's invariant (O50)

One lemma per operation of the host, of the engine and of the reset input: it keeps `EngineInv`. The lemmas about the
host's operations speak of a state whose reset input is released, since none is modelled otherwise (R382). -/

namespace Sys2Proof.Machine

open Sys2Proof

/-! ## The engine's invariant under reads, BUF writes and commands -/

section
variable {s : State}

/-- Nothing is held at its reset value once the reset input is released. -/
theorem heldInReset_of_released (hr : s.rstAsserted = false) (ha : s.rstAsserted = true) : HasResetValues s := by
  cases hr.symm.trans ha

/-- A busy engine is not held in reset: the reset values have BUSY = 0 (R380). -/
theorem EngineInv.released_of_busy (h : EngineInv s) (hb : s.busy = true) : s.rstAsserted = false := by
  cases hr : s.rstAsserted with
  | false => rfl
  | true => rw [(h.heldInReset hr).busy] at hb; cases hb

/-- An idle engine has FSEL = 0 (R53). -/
theorem EngineInv.fsel_of_idle (h : EngineInv s) (hb : s.busy = false) : s.fsel = false := by
  cases hf : s.fsel with
  | false => rfl
  | true => rw [(h.fselOnlyKey hf).1] at hb; cases hb

theorem EngineInv.takeEvent (h : EngineInv s) : EngineInv (takeEvent s) :=
  { h with heldInReset := fun hr => { h.heldInReset hr with } }

theorem EngineInv.regRead (h : EngineInv s) (hr : s.rstAsserted = false) (off : Nat) : EngineInv (regRead off s) :=
  { h with heldInReset := heldInReset_of_released hr }

theorem EngineInv.bufRead (h : EngineInv s) (hr : s.rstAsserted = false) (a : Nat) : EngineInv (bufRead a s) := by
  unfold Machine.bufRead
  split
  all_goals exact { h with heldInReset := heldInReset_of_released hr }

/-- A host BUF write keeps the canonical form, and its address is one BUF has (R57, R89). -/
theorem EngineInv.bufWrite (h : EngineInv s) (hr : s.rstAsserted = false) {a : Nat} (ha : a < s.cfg.memBytes)
    (b : Byte) : EngineInv (bufWrite a b s) :=
  { h with
    bufWf := Memory.wf_set h.bufWf a b
    bufInside := fun _ hc => (Memory.mem_set hc).elim (fun he => he ▸ ha) (h.bufInside _)
    heldInReset := heldInReset_of_released hr }

/-- A STATUS write clears ERR and ERRCODE together (R144). -/
theorem EngineInv.statusWrite (h : EngineInv s) (hr : s.rstAsserted = false) (v : Word) :
    EngineInv (statusWrite v s) :=
  { h with
    busyClears := fun hb => by simp [Machine.statusWrite, h.busyClears hb]
    codeIffErr := by
      simp only [Machine.statusWrite]; split
      · simp
      · exact h.codeIffErr
    codeLegal := by
      simp only [Machine.statusWrite]; split
      · simp
      · exact h.codeLegal
    heldInReset := heldInReset_of_released hr }

/-- Other datapath registers: what is left to show is RND at most 32 and FSEL = 1 only during KEY_EXPAND (R51, R53). -/
theorem EngineInv.withDatapathOf (h : EngineInv s) (hr : s.rstAsserted = false) {d : State} (hn : d.rnd.toNat ≤ 32)
    (hf : d.fsel = true → s.busy = true ∧ latched s = .ok .keyExpand) : EngineInv (withDatapathOf s d) :=
  { h with
    rndBound := hn
    fselOnlyKey := hf
    heldInReset := heldInReset_of_released hr }

/-- The start of a command sets RND = 0, and FSEL = 1 for KEY_EXPAND alone (R223, R246). -/
theorem EngineInv.datapathStart (h : EngineInv s) (hb : s.busy = true) {i : Instr} (hl : latched s = .ok i) :
    EngineInv (datapathStart i s) := by
  rw [datapathStart_frame]
  apply h.withDatapathOf (h.released_of_busy hb)
  · unfold Machine.datapathStart
    split
    · simp
    · split
      · simp
      · exact h.rndBound
  · unfold Machine.datapathStart
    split
    next hi => exact fun _ => ⟨hb, hi ▸ hl⟩
    · split
      · simp
      · exact h.fselOnlyKey

/-- A state with a command just latched has the invariant (R147). -/
theorem EngineInv.latch (h : EngineInv s) (hr : s.rstAsserted = false) (hb : s.busy = false) (i : Instr) :
    EngineInv { s with done := false, err := false, errcode := 0, opc := opcode i, busy := true } :=
  { h with
    busyClears := fun _ => ⟨rfl, rfl⟩
    codeIffErr := by simp
    codeLegal := by simp
    busyLatched := fun _ => ⟨i, latched_of_opc rfl⟩
    fselOnlyKey := fun hf => by cases (h.fsel_of_idle hb).symm.trans hf
    heldInReset := heldInReset_of_released hr }

theorem EngineInv.cmdWrite (h : EngineInv s) (hr : s.rstAsserted = false) (w : Word) : EngineInv (cmdWrite w s) := by
  obtain ⟨-, hw⟩ | ⟨hb, e, -, hw⟩ | ⟨hb, i, -, hw⟩ := cmdWrite_cases w s
  all_goals rw [hw]
  · exact { h with heldInReset := heldInReset_of_released hr }
  · exact { h with
      busyClears := fun hc => by cases hb.symm.trans hc
      codeIffErr := by simp
      codeLegal := by simp
      heldInReset := heldInReset_of_released hr }
  · exact (h.latch hr hb i).datapathStart rfl (latched_of_opc rfl)

end

/-! ## The engine's invariant under a reset -/

section
variable {s : State}

/-- The reset values satisfy the invariant over any legal parameters and any canonical BUF inside them (R59). -/
theorem engineInv_of_hasResetValues (hv : HasResetValues s) (hc : s.cfg.wellFormed = true) (hw : s.buf.wf = true)
    (hi : ∀ c ∈ s.buf, c.1 < s.cfg.memBytes) : EngineInv s where
  cfgLegal := hc
  busyClears _ := ⟨hv.done, hv.err⟩
  codeIffErr := by simp [hv.errcode, hv.err]
  codeLegal := by simp [hv.errcode]
  busyLatched hb := by cases hv.busy.symm.trans hb
  rndBound := by simp [hv.rnd]
  fselOnlyKey hf := by cases hv.fsel.symm.trans hf
  subkeysOfKey hk := by cases hv.rkValid.symm.trans hk
  bufWf := hw
  bufInside := hi
  outlenBound := by simp [hv.outlen]
  heldInReset _ := hv

theorem EngineInv.softReset (h : EngineInv s) : EngineInv (softReset s) :=
  engineInv_of_hasResetValues (hasResetValues_softReset s) (by rw [softReset_cfg]; exact h.cfgLegal)
    (abort_wf h.bufWf) (by rw [softReset_cfg]; exact abort_inside h.bufInside)

theorem EngineInv.hardwareReset (h : EngineInv s) (powerOn : Bool) : EngineInv (hardwareReset powerOn s) := by
  have hv := hasResetValues_hardwareReset powerOn s
  have hc := hardwareReset_cfg s powerOn
  refine engineInv_of_hasResetValues hv (by rw [hc]; exact h.cfgLegal) ?_ ?_
  · cases powerOn with
    | false => exact abort_wf h.bufWf
    | true => exact Memory.wf_reset
  · rw [hc]
    cases powerOn with
    | false => exact abort_inside h.bufInside
    | true => exact fun c hm => by cases hm

/-! ## The engine's invariant under a host operation -/

theorem EngineInv.ctrlWrite (h : EngineInv s) (hr : s.rstAsserted = false) (v : Word) : EngineInv (ctrlWrite v s) := by
  unfold Machine.ctrlWrite
  split
  · exact h.softReset
  · exact { h with heldInReset := heldInReset_of_released hr }

/-- A KEY write clears RK_VALID, so that no subkeys of the old KEY stay valid (R36). -/
theorem EngineInv.regWrite (h : EngineInv s) (hr : s.rstAsserted = false) (off : Nat) (v : Word) :
    EngineInv (regWrite off v s) := by
  obtain ⟨-, hw⟩ | ⟨-, hw⟩ | ⟨-, hw⟩ | ⟨-, k, hw⟩ | ⟨-, d, c, a, b, l, p, hw⟩ | hw := regWrite_cases off v s
  all_goals rw [hw]
  · exact h.cmdWrite hr v
  · exact h.statusWrite hr v
  · exact h.ctrlWrite hr v
  · exact { h with
      subkeysOfKey := fun hk => by cases hk
      heldInReset := heldInReset_of_released hr }
  · exact { h with heldInReset := heldInReset_of_released hr }
  · exact h

theorem EngineInv.hostStep {t : State} (h : EngineInv s) {op : HostOp} (hs : hostStep op s = .next t) :
    EngineInv t := by
  obtain ⟨hr, ⟨off, -, -, -, rfl⟩ | ⟨off, v, -, -, -, rfl⟩ | ⟨a, -, -, rfl⟩ | ⟨a, b, -, ha, -, -, rfl⟩⟩ :=
    hostStep_cases hs
  · exact h.regRead hr off
  · exact h.regWrite hr off v
  · exact h.bufRead hr a
  · exact h.bufWrite hr ha b

end

/-! ## The engine's invariant under the engine's steps -/

section
variable {s t : State}

/-- A round is taken only below RND = 32, and FSEL is kept or cleared (R51, R53). -/
theorem EngineInv.datapathStep (h : EngineInv s) (hr : s.rstAsserted = false) (i : Instr) :
    EngineInv (datapathStep i s) := by
  have hn : s.rnd.toNat < 32 → (s.rnd + 1).toNat ≤ 32 := fun hlt => by
    rw [BitVec.toNat_add]; exact (Nat.mod_le _ _).trans hlt
  rw [datapathStep_frame]
  apply h.withDatapathOf hr
  all_goals unfold Machine.datapathStep
  · repeat' split
    case isTrue.isTrue hlt | isFalse.isTrue.isTrue hlt => exact hn hlt
    case isFalse.isTrue.isFalse.isTrue => simp
    all_goals exact h.rndBound
  · repeat' split
    case isFalse.isTrue.isFalse.isTrue => simp
    all_goals exact h.fselOnlyKey

theorem EngineInv.engineStep (h : EngineInv s) : EngineInv (engineStep s) := by
  obtain he | ⟨i, hb, -, he⟩ := engineStep_cases s
  all_goals rw [he]
  · exact h
  · exact h.datapathStep (h.released_of_busy hb) i

theorem datapathFinish_rnd_le (h : s.rnd.toNat ≤ 32) (i : Instr) : (datapathFinish i s).rnd.toNat ≤ 32 := by
  unfold datapathFinish
  repeat' split
  · simp
  · simp
  · exact h

/-- A command ends with FSEL = 0 when FSEL = 1 is KEY_EXPAND's (R53). -/
theorem datapathFinish_fsel {i : Instr} (h : s.fsel = true → i = .keyExpand) :
    (datapathFinish i s).fsel = false := by
  unfold datapathFinish
  split
  · rfl
  next hi =>
    split
    · rfl
    · cases hf : s.fsel with
      | false => rfl
      | true => exact absurd (h hf) hi

/-- Each error has a code of R340. -/
theorem ErrorCode.code_ne_zero (c : ErrorCode) : c.code ≠ 0 := by cases c <;> decide

theorem ErrorCode.code_le (c : ErrorCode) : c.code.toNat ≤ 7 := by cases c <;> decide

/-- A command that reports an early error: STATUS and OUTLEN only (R344). KEY_EXPAND has none, so FSEL is 0. -/
theorem EngineInv.raiseError (h : EngineInv s) (hr : s.rstAsserted = false) {i : Instr} (hf : s.fsel = false)
    (c : ErrorCode) : EngineInv (raiseError i c s) :=
  { h with
    busyClears := fun hb => by cases hb
    codeIffErr := iff_of_false c.code_ne_zero (by simp)
    codeLegal := c.code_le
    busyLatched := fun hb => by cases hb
    fselOnlyKey := fun hh => by cases hf.symm.trans hh
    outlenBound := by
      rw [raiseError_outlen]; split
      · exact Nat.zero_le _
      · exact h.outlenBound
    heldInReset := heldInReset_of_released hr }

/-- The running command's `exec` keeps the invariant. -/
theorem EngineInv.exec (h : EngineInv s) (hb : s.busy = true) {i : Instr} (hl : latched s = .ok i)
    (he : exec i s = .next t) : EngineInv t := by
  have hr := h.released_of_busy hb
  have hf : s.fsel = true → i = .keyExpand := fun hf => by
    have := hl.symm.trans (h.fselOnlyKey hf).2; cases this; rfl
  obtain ⟨c, hc, rfl⟩ | ⟨hn, d, bs, o, rk, rv, p, e, ec, rfl, hbs, ho, hk, hcode⟩ := exec_cases he
  · refine h.raiseError hr ?_ c
    cases hs : s.fsel with
    | false => rfl
    | true => rw [hf hs] at hc; cases hc
  · have hfit := outMax_fits hn
    exact
      { cfgLegal := by simp [h.cfgLegal]
        busyClears := fun hx => by cases hx
        codeIffErr := by
          obtain ⟨rfl, rfl⟩ | ⟨-, rfl, rfl⟩ := hcode
          · exact h.codeIffErr
          · simp
        codeLegal := by
          obtain ⟨-, rfl⟩ | ⟨-, -, rfl⟩ := hcode
          · exact h.codeLegal
          · simp
        busyLatched := fun hx => by cases hx
        rndBound := datapathFinish_rnd_le h.rndBound i
        fselOnlyKey := fun hx => by cases (datapathFinish_fsel hf).symm.trans hx
        subkeysOfKey := fun hx => by
          obtain ⟨rfl, rfl⟩ | ⟨-, rfl, -⟩ := hk
          · simpa using h.subkeysOfKey hx
          · simp
        bufWf := Memory.wf_memWrite h.bufWf _ _
        bufInside := fun c hc => by
          rw [datapathFinish_cfg]
          obtain hin | hold := mem_memWrite hc
          · omega
          · exact h.bufInside c hold
        outlenBound := by
          have := h.outlenBound
          rw [datapathFinish_cfg]
          obtain rfl | ho := ho
          · exact this
          · exact ho.trans (by omega)
        heldInReset := heldInReset_of_released (by simp [hr]) }

theorem EngineInv.engineLast (h : EngineInv s) (hs : engineLast s = .next t) : EngineInv t := by
  obtain ⟨-, rfl⟩ | ⟨i, hb, hl, he⟩ := engineLast_cases hs
  · exact h
  · exact h.exec hb hl he

/-! ## The engine's invariant under a step -/

theorem EngineInv.perform (h : EngineInv s) {e : Event} (hs : perform e s = .next t) : EngineInv t := by
  cases e with
  | host op => exact h.hostStep hs
  | engineStep => cases hs; exact h.engineStep
  | engineLast => exact h.engineLast hs
  | resetAssert powerOn => cases hs; exact h.hardwareReset powerOn
  | resetRelease => cases hs; exact { h with heldInReset := heldInReset_of_released rfl }

end

/-- Settles O50: each event keeps the engine's invariant. -/
theorem stepKeepsTheEngineInvariant : Obligations.StepKeepsTheEngineInvariant := by
  intro s t h hs
  obtain ⟨-, rfl⟩ | ⟨e, -, he⟩ := step_cases hs
  · exact h
  · exact h.takeEvent.perform he

end Sys2Proof.Machine
end

section
/-! # The reset values and the interrupt line (O1, O48, O52) -/

namespace Sys2Proof.Machine

open Sys2Proof

/-! ## `irq` -/

section
variable {s : State}

theorem irq_of_done_clear (h : s.done = false) : irq s = false := by rw [irq, h, Bool.and_false]

theorem irq_of_ie_clear (h : s.ie = false) : irq s = false := by rw [irq, h, Bool.false_and]

theorem HasResetValues.irq_low (h : HasResetValues s) : irq s = false := irq_of_done_clear h.done

theorem hasResetValues_reset : HasResetValues State.reset := hasResetValues_resetRegisters State.reset

/-- An accepted command starts with DONE = 0 (R147). -/
theorem cmdWrite_done_of_accepted {w : Word} {i : Instr} (hb : s.busy = false) (hd : decode w = .ok i) :
    (cmdWrite w s).done = false := by
  simp [cmdWrite, hb, hd, acceptCommand]

theorem ctrlWrite_of_soft_reset {v : Word} (h : v.getLsbD 1 = true) : ctrlWrite v s = softReset s := if_pos h

theorem ctrlWrite_of_no_reset {v : Word} (h : v.getLsbD 1 = false) :
    ctrlWrite v s = { s with ie := v.getLsbD 0 } := if_neg (Bool.eq_false_iff.1 h)

/-- A CTRL write with bit 0 = 0 leaves the line low, whether it sets IE = 0 or resets (R35, R351). -/
theorem irq_ctrlWrite_of_ie_clear {v : Word} (h : v.getLsbD 0 = false) : irq (ctrlWrite v s) = false := by
  cases hv : v.getLsbD 1 with
  | true => rw [ctrlWrite_of_soft_reset hv]; exact (hasResetValues_softReset s).irq_low
  | false => rw [ctrlWrite_of_no_reset hv]; exact irq_of_ie_clear h

end

/-- Settles O48: DONE = 0 or IE = 0 makes the line low in each way R351 lists, and IE alone raises it. -/
theorem interruptFollowsEnableAndDone : Obligations.InterruptFollowsEnableAndDone := by
  intro s
  refine ⟨rfl, fun v hv => ?_, fun w i hb hd => ?_, fun v hv => irq_ctrlWrite_of_ie_clear hv, fun v h1 h0 hd => ?_,
    (hasResetValues_softReset s).irq_low, fun powerOn => (hasResetValues_hardwareReset powerOn s).irq_low⟩
  · exact irq_of_done_clear (if_pos hv)
  · exact irq_of_done_clear (cmdWrite_done_of_accepted hb hd)
  · rw [ctrlWrite_of_no_reset h1, irq, h0, hd]; rfl

/-! ## The reset values -/

/-- A soft reset that aborts no buffer command changes no BUF byte (R59, R152). -/
theorem bufByte_softReset_of_no_buffer {s : State} (h : runningBuffer s = none) (a : Nat) :
    bufByte (softReset s) a = bufByte s a := by
  rw [softReset, abort_of_no_buffer h]; rfl

/-- Settles O1: both resets put the values of R59 in place, and BUF is free after a power-on only. -/
theorem resetGivesTheSpecValues : Obligations.ResetGivesTheSpecValues := by
  refine ⟨hasResetValues_reset, hasResetValues_reset.irq_low, fun a => rfl,
    fun s => ⟨hasResetValues_softReset s, (hasResetValues_softReset s).irq_low⟩,
    fun s powerOn =>
      ⟨hasResetValues_hardwareReset powerOn s, (hasResetValues_hardwareReset powerOn s).irq_low⟩,
    fun s hn a => bufByte_softReset_of_no_buffer hn a, fun s a => rfl, fun s draw => rfl⟩

/-- An idle engine has the datapath invariant, which speaks of a running command only. -/
theorem datapathInv_of_idle {s : State} (h : s.busy = false) : DatapathInv s := fun hb => by
  cases h.symm.trans hb

/-- Settles O52: the reset values over the parameters the model chose and an empty BUF. -/
theorem resetHasTheInvariants : Obligations.ResetHasTheInvariants :=
  ⟨engineInv_of_hasResetValues hasResetValues_reset (by decide) Memory.wf_reset (fun c hc => by cases hc),
    datapathInv_of_idle hasResetValues_reset.busy⟩

end Sys2Proof.Machine
end

section
/-! # The results of a command, in one form

What each command writes to DOUT, OUTLEN, POUT and BUF when no early check fails, as functions of the command, so that
one equation says what every command answers: what it can change, and what that depends on. -/

namespace Sys2Proof.Machine

open Sys2Proof

/-- DOUT at the end of command `i` (R243, R244). -/
def doutAfter (i : Instr) (s : State) : Quad :=
  match i with
  | .encBlock => sm4Words (subkeyMux s.rk false) s.din
  | .decBlock => sm4Words (subkeyMux s.rk true) s.din
  | _ => s.dout

/-- POUT at the end of command `i` (R190 to R194). -/
def poutAfter (i : Instr) (s : State) : Word :=
  match i with
  | .primS => tau s.pin
  | .primL => diffL s.pin
  | .primLp => diffLp s.pin
  | .primT => transT s.pin
  | .primTp => transTp s.pin
  | _ => s.pout

/-- The bytes command `i` writes at DST (R271, R274, R301). -/
def bytesWritten (i : Instr) (s : State) : List Byte :=
  match i with
  | .ecbEnc => ecbEncBytes s
  | .ecbDec => ecbDecBytes s
  | .ctrXform => ctrBytes s
  | _ => []

/-- Command `i` ends with ERR_UNPAD: ECB_DEC whose last byte exceeds LEN (R274). -/
def unpadFails (i : Instr) (s : State) : Bool := i == .ecbDec && decide (s.len.toNat < unpadValue s)

/-- OUTLEN at the end of command `i` (R271, R274, R301, R343); `LEN - v` is 0 when the padding is wrong. -/
def outlenAfter (i : Instr) (s : State) : Word :=
  match i with
  | .ecbEnc => BitVec.ofNat 32 (outMax .ecbEnc s)
  | .ecbDec => BitVec.ofNat 32 (s.len.toNat - unpadValue s)
  | .ctrXform => s.len
  | _ => s.outlen

/-- The state in which command `i` ends when no early check fails. -/
def commandEnd (i : Instr) (s : State) : State :=
  { datapathFinish i s with
    busy := false, done := true
    dout := doutAfter i s
    buf := memWrite s.buf s.dst.toNat (bytesWritten i s)
    outlen := outlenAfter i s
    pout := poutAfter i s
    rk := if i = .keyExpand then keySchedule s.key else s.rk
    rkValid := if i = .keyExpand then true else s.rkValid
    err := if unpadFails i s then true else s.err
    errcode := if unpadFails i s then 7 else s.errcode }

/-- Every command that passes its early checks ends in `commandEnd`. -/
theorem exec_of_no_earlyError {i : Instr} {s : State} (h : earlyError i s = none) :
    exec i s = .next (commandEnd i s) := by
  cases i with
  | encBlock => rw [exec_encBlock h, commandEnd, datapathFinish_frame]; rfl
  | decBlock => rw [exec_decBlock h, commandEnd, datapathFinish_frame]; rfl
  | ecbEnc => rw [exec_ecbEnc h, commandEnd, datapathFinish_frame]; rfl
  | ctrXform => rw [exec_ctrXform h, commandEnd, datapathFinish_frame]; rfl
  | ecbDec =>
    by_cases hu : s.len.toNat < unpadValue s
    · have hz : s.len.toNat - unpadValue s = 0 := by omega
      rw [exec_ecbDec_unpad h hu, commandEnd, datapathFinish_frame]
      simp [unpadFails, hu, outlenAfter, hz]; rfl
    · rw [exec_ecbDec h (by omega), commandEnd, datapathFinish_frame]; simp [unpadFails, hu]; rfl
  | keyExpand | primS | primL | primLp | primT | primTp => rfl

/-! ## What a command changes -/

section
variable {i : Instr} {s t : State}

/-- A command ends in the error record of an early error or in `commandEnd`. -/
theorem exec_ends (h : exec i s = .next t) : (∃ c, t = raiseError i c s) ∨ t = commandEnd i s := by
  cases he : earlyError i s with
  | some c => rw [exec_of_earlyError he] at h; cases h; exact .inl ⟨c, rfl⟩
  | none => rw [exec_of_no_earlyError he] at h; cases h; exact .inr rfl

theorem exec_busy (h : exec i s = .next t) : t.busy = false := by
  obtain ⟨c, rfl⟩ | rfl := exec_ends h <;> rfl

theorem exec_done (h : exec i s = .next t) : t.done = true := by
  obtain ⟨c, rfl⟩ | rfl := exec_ends h <;> rfl

theorem exec_ovr (h : exec i s = .next t) : t.ovr = s.ovr := by
  obtain ⟨c, rfl⟩ | rfl := exec_ends h
  · rfl
  · exact datapathFinish_ovr i s

/-- Only ENC_BLOCK and DEC_BLOCK write DOUT (R38). -/
theorem exec_dout (h : exec i s = .next t) : t.dout = s.dout ∨ i = .encBlock ∨ i = .decBlock := by
  obtain ⟨c, rfl⟩ | rfl := exec_ends h
  · exact .inl rfl
  · cases i
    case encBlock | decBlock => simp
    all_goals exact .inl rfl

/-- Only the buffer commands write OUTLEN, 0 on an error (R43, R343). -/
theorem exec_outlen (h : exec i s = .next t) :
    t.outlen = s.outlen ∨ i = .ecbEnc ∨ i = .ecbDec ∨ i = .ctrXform := by
  obtain ⟨c, rfl⟩ | rfl := exec_ends h
  all_goals
    cases i
    case ecbEnc | ecbDec | ctrXform => simp
    all_goals exact .inl rfl

/-- Only the PRIM commands write POUT (R45). -/
theorem exec_pout (h : exec i s = .next t) :
    t.pout = s.pout ∨ i ∈ [Instr.primS, .primL, .primLp, .primT, .primTp] := by
  obtain ⟨c, rfl⟩ | rfl := exec_ends h
  · exact .inl rfl
  · cases i
    case primS | primL | primLp | primT | primTp => exact .inr (by decide)
    all_goals exact .inl rfl

/-- Only KEY_EXPAND writes RK and RK_VALID (R46). -/
theorem exec_rk (h : exec i s = .next t) :
    (t.rk = s.rk ∧ t.rkValid = s.rkValid) ∨ (i = .keyExpand ∧ t.rk = keySchedule s.key) := by
  obtain ⟨c, rfl⟩ | rfl := exec_ends h
  · exact .inl ⟨rfl, rfl⟩
  · by_cases hi : i = .keyExpand
    · exact .inr ⟨hi, if_pos hi⟩
    · exact .inl ⟨if_neg hi, if_neg hi⟩

end

end Sys2Proof.Machine
end

section
/-! # What a step may change (O40, O55, O56, O57)

Every step is a reset, the end of the latched command, or a step that keeps BUSY, the subkeys and the results
(`step_kinds`); each statement is then read off for the three kinds. -/

namespace Sys2Proof.Machine

open Sys2Proof

/-! ## Steps that keep the results -/

/-- `t` has the results of `s`: BUSY has not fallen, RK_VALID has not risen, and RK, DOUT, OUTLEN and POUT are the
same. -/
structure ResultsKept (s t : State) : Prop where
  busy : s.busy = true → t.busy = true
  rkValid : t.rkValid = true → s.rkValid = true
  rk : t.rk = s.rk
  dout : t.dout = s.dout
  outlen : t.outlen = s.outlen
  pout : t.pout = s.pout

/-- The host's next operation writes the register at `off` a value with bit `bit` set. -/
def NextWriteSets (off bit : Nat) (s : State) : Prop :=
  ∃ rest v, s.agenda = .host (.regWrite 32 (s.cfg.regBase + off) v) :: rest ∧ v.getLsbD bit = true

/-- The reset input is asserted next. -/
def NextAssertsReset (s : State) : Prop := ∃ rest powerOn, s.agenda = .resetAssert powerOn :: rest

section
variable {s t : State}

theorem ResultsKept.refl (s : State) : ResultsKept s s := ⟨id, id, rfl, rfl, rfl, rfl⟩

theorem resultsKept_takeEvent (s : State) : ResultsKept s (takeEvent s) := ⟨id, id, rfl, rfl, rfl, rfl⟩

theorem resultsKept_regRead (off : Nat) (s : State) : ResultsKept s (regRead off s) := ⟨id, id, rfl, rfl, rfl, rfl⟩

theorem resultsKept_bufRead (a : Nat) (s : State) : ResultsKept s (bufRead a s) := by
  unfold bufRead
  split
  all_goals exact ⟨id, id, rfl, rfl, rfl, rfl⟩

theorem resultsKept_bufWrite (a : Nat) (b : Byte) (s : State) : ResultsKept s (bufWrite a b s) :=
  ⟨id, id, rfl, rfl, rfl, rfl⟩

theorem resultsKept_statusWrite (v : Word) (s : State) : ResultsKept s (statusWrite v s) :=
  ⟨id, id, rfl, rfl, rfl, rfl⟩

theorem resultsKept_cmdWrite (w : Word) (s : State) : ResultsKept s (cmdWrite w s) := by
  obtain ⟨-, h⟩ | ⟨-, e, -, h⟩ | ⟨-, i, -, h⟩ := cmdWrite_cases w s
  all_goals rw [h]
  · exact ⟨id, id, rfl, rfl, rfl, rfl⟩
  · exact ⟨id, id, rfl, rfl, rfl, rfl⟩
  · constructor <;> simp [acceptCommand]

theorem resultsKept_engineStep (s : State) : ResultsKept s (engineStep s) := by
  obtain h | ⟨i, -, -, h⟩ := engineStep_cases s
  all_goals rw [h]
  · exact .refl s
  · constructor <;> simp

theorem ResultsKept.trans {u : State} (h : ResultsKept s t) (h' : ResultsKept t u) : ResultsKept s u where
  busy := h'.busy ∘ h.busy
  rkValid := h.rkValid ∘ h'.rkValid
  rk := h'.rk.trans h.rk
  dout := h'.dout.trans h.dout
  outlen := h'.outlen.trans h.outlen
  pout := h'.pout.trans h.pout

/-! ## OVR -/

theorem cmdWrite_keeps_ovr {w : Word} (h : s.ovr = true) : (cmdWrite w s).ovr = true := by
  obtain ⟨-, hw⟩ | ⟨-, e, -, hw⟩ | ⟨-, i, -, hw⟩ := cmdWrite_cases w s
  all_goals rw [hw]
  · exact h
  · simpa [acceptCommand] using h

theorem engineStep_ovr (s : State) : (engineStep s).ovr = s.ovr := by
  obtain h | ⟨i, -, -, h⟩ := engineStep_cases s
  all_goals rw [h]
  exact datapathStep_ovr i s

theorem bufRead_ovr (a : Nat) (s : State) : (bufRead a s).ovr = s.ovr := by
  unfold bufRead; split <;> rfl

/-! ## The three kinds of step -/

/-- A register write resets the engine by CTRL bit 1, or it keeps the results; and OVR but for a STATUS write with bit
4 = 1. -/
theorem regWrite_kinds (off : Nat) (v : Word) (s : State) :
    (ResultsKept s (regWrite off v s)
      ∧ (s.ovr = true → (regWrite off v s).ovr = true ∨ (regAt off = .status ∧ v.getLsbD 4 = true)))
    ∨ (HasResetValues (regWrite off v s) ∧ regAt off = .ctrl ∧ v.getLsbD 1 = true) := by
  obtain ⟨-, h⟩ | ⟨hr, h⟩ | ⟨hr, h⟩ | ⟨-, k, h⟩ | ⟨-, d, c, a, b, l, p, h⟩ | h := regWrite_cases off v s
  all_goals rw [h]
  · exact .inl ⟨resultsKept_cmdWrite v s, fun ho => .inl (cmdWrite_keeps_ovr ho)⟩
  · refine .inl ⟨resultsKept_statusWrite v s, fun ho => ?_⟩
    cases hv : v.getLsbD 4 with
    | true => exact .inr ⟨hr, rfl⟩
    | false => exact .inl (by rw [statusWrite, hv]; exact ho)
  · cases hv : v.getLsbD 1 with
    | true => rw [ctrlWrite_of_soft_reset hv]; exact .inr ⟨hasResetValues_softReset s, hr, rfl⟩
    | false => rw [ctrlWrite_of_no_reset hv]; exact .inl ⟨⟨id, id, rfl, rfl, rfl, rfl⟩, .inl⟩
  · exact .inl ⟨⟨id, fun hk => (by cases hk), rfl, rfl, rfl, rfl⟩, .inl⟩
  · exact .inl ⟨⟨id, id, rfl, rfl, rfl, rfl⟩, .inl⟩
  · exact .inl ⟨.refl s, .inl⟩

/-- An event other than the engine's last step is the agenda's oldest: an empty agenda yields `engineLast` alone. -/
theorem agenda_of_nextEvent {e : Event} (h : nextEvent s = some e) (hne : e ≠ .engineLast) :
    s.agenda = e :: s.agenda.tail := by
  unfold nextEvent at h
  split at h
  next e' rest ha => cases h; rw [ha, List.tail_cons]
  next =>
    split at h
    · cases h; exact absurd rfl hne
    · cases h

/-- A step keeps the results, and OVR but for a STATUS write with bit 4 = 1; or it is a reset; or it is the end of the
latched command. -/
theorem step_kinds (h : step s = .next t) :
    (ResultsKept s t ∧ (s.ovr = true → t.ovr = true ∨ NextWriteSets 0x008 4 s))
    ∨ (HasResetValues t ∧ (NextWriteSets 0x00C 1 s ∨ NextAssertsReset s))
    ∨ ∃ i, s.busy = true ∧ latched s = .ok i ∧ exec i (takeEvent s) = .next t := by
  obtain ⟨-, rfl⟩ | ⟨e, hn, he⟩ := step_cases h
  · exact .inl ⟨.refl _, .inl⟩
  have ht := resultsKept_takeEvent s
  cases e with
  | host op =>
    have ha := agenda_of_nextEvent hn (by simp)
    obtain ⟨-, ⟨off, -, -, -, rfl⟩ | ⟨off, v, rfl, hlt, h4, rfl⟩ | ⟨a, -, -, rfl⟩ | ⟨a, b, -, -, -, -, rfl⟩⟩ :=
      hostStep_cases he
    · exact .inl ⟨ht.trans (resultsKept_regRead off _), .inl⟩
    · obtain ⟨-, hstatus, hctrl⟩ := regAt_control off hlt h4
      obtain ⟨hk, ho⟩ | ⟨hv, hr, hb⟩ := regWrite_kinds off v (takeEvent s)
      · refine .inl ⟨ht.trans hk, fun hs => (ho hs).imp_right fun ⟨hr, hb⟩ => ?_⟩
        exact ⟨_, v, hstatus hr ▸ ha, hb⟩
      · exact .inr (.inl ⟨hv, .inl ⟨_, v, hctrl hr ▸ ha, hb⟩⟩)
    · exact .inl ⟨ht.trans (resultsKept_bufRead a _), fun hs => .inl ((bufRead_ovr a _).trans hs)⟩
    · exact .inl ⟨ht.trans (resultsKept_bufWrite a b _), .inl⟩
  | engineStep =>
    cases he
    exact .inl ⟨ht.trans (resultsKept_engineStep _), fun hs => .inl ((engineStep_ovr _).trans hs)⟩
  | engineLast =>
    obtain ⟨-, rfl⟩ | ⟨i, hb, hl, hx⟩ := engineLast_cases he
    · exact .inl ⟨ht, .inl⟩
    · exact .inr (.inr ⟨i, hb, hl, hx⟩)
  | resetAssert powerOn =>
    cases he
    exact .inr (.inl ⟨hasResetValues_hardwareReset powerOn _,
      .inr ⟨_, powerOn, agenda_of_nextEvent hn (by simp)⟩⟩)
  | resetRelease => cases he; exact .inl ⟨⟨id, id, rfl, rfl, rfl, rfl⟩, .inl⟩

end

/-! ## The statements -/

/-- Settles O40: of the three kinds of step a command's end keeps OVR, and the others clear it as listed. -/
theorem ovrStaysUntilClearedOrReset : Obligations.OvrStaysUntilClearedOrReset := by
  intro s t hs h ht
  obtain ⟨-, ho⟩ | ⟨-, hr⟩ | ⟨i, -, -, hx⟩ := step_kinds h
  · obtain hk | hw := ho hs
    · cases ht.symm.trans hk
    · exact .inl hw
  · exact .inr hr
  · cases ht.symm.trans ((exec_ovr hx).trans hs)

/-- Settles O55: a step that keeps the results keeps BUSY = 1. -/
theorem busyEndsOnlyByCompletionOrReset : Obligations.BusyEndsOnlyByCompletionOrReset := by
  intro s t hs h ht
  obtain ⟨hk, -⟩ | ⟨hv, -⟩ | ⟨i, -, hl, hx⟩ := step_kinds h
  · cases ht.symm.trans (hk.busy hs)
  · exact .inr hv
  · exact .inl ⟨i, hl, hx, exec_done hx⟩

/-- Settles O56: of the commands only KEY_EXPAND writes the subkeys. -/
theorem onlyKeyExpandWritesTheSubkeys : Obligations.OnlyKeyExpandWritesTheSubkeys := by
  intro s t h
  obtain ⟨hk, -⟩ | ⟨hv, -⟩ | ⟨i, hb, hl, hx⟩ := step_kinds h
  · exact ⟨.inl hk.rk, fun h0 h1 => by cases h0.symm.trans (hk.rkValid h1)⟩
  · exact ⟨.inr (.inl hv), fun _ h1 => by cases hv.rkValid.symm.trans h1⟩
  · obtain ⟨hrk, hrv⟩ | ⟨rfl, hrk⟩ := exec_rk hx
    · exact ⟨.inl hrk, fun h0 h1 => by cases h0.symm.trans (hrv.symm.trans h1)⟩
    · exact ⟨.inr (.inr ⟨hb, hl, hx, exec_busy hx, exec_done hx, hrk⟩),
        fun _ _ => ⟨hb, hl, hx, exec_busy hx, exec_done hx, hrk⟩⟩

/-- Settles O57: a result register that a command's end changes is one of the command's own. -/
theorem resultRegistersChangeOnlyByTheirCommands : Obligations.ResultRegistersChangeOnlyByTheirCommands := by
  intro s t h
  obtain ⟨hk, -⟩ | ⟨hv, -⟩ | ⟨i, hb, hl, hx⟩ := step_kinds h
  · exact .inr ⟨.inl hk.dout, .inl hk.outlen, .inl hk.pout⟩
  · exact .inl hv
  · have hd := exec_done hx
    refine .inr ⟨(exec_dout hx).imp_right fun hi => ⟨hb, hd, ?_⟩, (exec_outlen hx).imp_right fun hi => ⟨hb, hd, ?_⟩,
      (exec_pout hx).imp_right fun hi => ⟨hb, hd, i, hi, hl⟩⟩
    · obtain rfl | rfl := hi
      · exact .inl hl
      · exact .inr hl
    · obtain rfl | rfl | rfl := hi
      · exact .inl hl
      · exact .inr (.inl hl)
      · exact .inr (.inr hl)

end Sys2Proof.Machine
end

section
/-! # KEY influences nothing until it is expanded (O58)

Two states that differ in KEY and Xw alone stay so under every operation but the end of KEY_EXPAND: KEY is read by no
register access, and Xw only by the rounds, which no result depends on (R36, R56, R353). -/

namespace Sys2Proof.Machine

open Sys2Proof

/-- `s` with KEY = `k` and Xw = `x`. -/
def withKey (k x : Quad) (s : State) : State := { s with key := k, xw := x }

/-- `u` differs from `s` in KEY and Xw at most. -/
def AgreesButKey (s u : State) : Prop := ∃ k x, u = withKey k x s

section
variable (k x : Quad) (s : State)

theorem agreesButKey_withKey : AgreesButKey s (withKey k x s) := ⟨k, x, rfl⟩

theorem AgreesButKey.refl : AgreesButKey s s := ⟨s.key, s.xw, rfl⟩

theorem sameOperands_withKey : SameOperands s (withKey k x s) := by constructor <;> rfl

@[simp] theorem withKey_cfg : (withKey k x s).cfg = s.cfg := rfl
@[simp] theorem withKey_busy : (withKey k x s).busy = s.busy := rfl
@[simp] theorem withKey_rnd : (withKey k x s).rnd = s.rnd := rfl
@[simp] theorem withKey_bi : (withKey k x s).bi = s.bi := rfl
@[simp] theorem latched_withKey : latched (withKey k x s) = latched s := rfl
@[simp] theorem runningBuffer_withKey : runningBuffer (withKey k x s) = runningBuffer s := rfl
@[simp] theorem busyDestination_withKey (a : Nat) : busyDestination (withKey k x s) a = busyDestination s a := rfl
@[simp] theorem unpadValue_withKey : unpadValue (withKey k x s) = unpadValue s :=
  (sameOperands_withKey k x s).unpadValue_eq

/-! ## The datapath -/

theorem datapathStart_withKey (i : Instr) : AgreesButKey (datapathStart i s) (datapathStart i (withKey k x s)) := by
  unfold datapathStart
  rw [(sameOperands_withKey k x s).runsBlocks_eq]
  repeat' split
  all_goals exact ⟨k, _, rfl⟩

theorem datapathStep_withKey (i : Instr) : AgreesButKey (datapathStep i s) (datapathStep i (withKey k x s)) := by
  have so := sameOperands_withKey k x s
  unfold datapathStep
  rw [so.runsBlocks_eq, so.blockCount_eq, withKey_rnd, withKey_bi]
  repeat' split
  all_goals exact ⟨k, _, rfl⟩

theorem datapathFinish_withKey (i : Instr) :
    AgreesButKey (datapathFinish i s) (datapathFinish i (withKey k x s)) := by
  have so := sameOperands_withKey k x s
  unfold datapathFinish
  rw [so.runsBlocks_eq, so.blockCount_eq]
  repeat' split
  all_goals exact ⟨k, _, rfl⟩

/-! ## The host's operations and the resets -/

theorem regRead_withKey (off : Nat) : AgreesButKey (regRead off s) (regRead off (withKey k x s)) := by
  refine ⟨k, x, ?_⟩
  unfold regRead
  cases regAt off <;> rfl

theorem bufRead_withKey (a : Nat) : AgreesButKey (bufRead a s) (bufRead a (withKey k x s)) := by
  refine ⟨k, x, ?_⟩
  unfold bufRead
  rw [busyDestination_withKey]
  split <;> rfl

theorem cmdWrite_withKey (w : Word) : AgreesButKey (cmdWrite w s) (cmdWrite w (withKey k x s)) := by
  unfold cmdWrite
  rw [withKey_busy]
  split
  · exact ⟨k, x, rfl⟩
  · split
    · exact ⟨k, x, rfl⟩
    · exact datapathStart_withKey k x _ _

theorem abort_withKey : abort (withKey k x s) = withKey k x (abort s) := by
  unfold abort
  rw [runningBuffer_withKey]
  split <;> rfl

/-- After a soft reset nothing is left of KEY and Xw. -/
theorem softReset_withKey : softReset (withKey k x s) = softReset s := by
  rw [softReset, abort_withKey]; rfl

theorem hardwareReset_withKey (powerOn : Bool) :
    hardwareReset powerOn (withKey k x s) = hardwareReset powerOn s := by
  unfold hardwareReset
  rw [abort_withKey]; rfl

theorem ctrlWrite_withKey (v : Word) : AgreesButKey (ctrlWrite v s) (ctrlWrite v (withKey k x s)) := by
  unfold ctrlWrite
  rw [softReset_withKey]
  split
  · exact .refl _
  · exact ⟨k, x, rfl⟩

/-- An operand write, dropped while busy in both states alike. -/
theorem operandWrite_withKey {a b : State} (h : AgreesButKey a b) :
    AgreesButKey (operandWrite s a) (operandWrite (withKey k x s) b) := by
  unfold operandWrite
  rw [withKey_busy]
  split
  · exact agreesButKey_withKey k x s
  · exact h

theorem regWrite_withKey (off : Nat) (v : Word) : AgreesButKey (regWrite off v s) (regWrite off v (withKey k x s)) := by
  unfold regWrite
  cases regAt off
  case cmd => exact cmdWrite_withKey k x s v
  case status => exact ⟨k, x, rfl⟩
  case ctrl => exact ctrlWrite_withKey k x s v
  case key i => exact operandWrite_withKey k x s ⟨k.set i v, x, rfl⟩
  case din | ctr | src | dst | len | pin => exact operandWrite_withKey k x s ⟨k, x, rfl⟩
  all_goals exact agreesButKey_withKey k x s

/-! ## The engine's steps -/

theorem engineStep_withKey : AgreesButKey (engineStep s) (engineStep (withKey k x s)) := by
  unfold engineStep
  rw [withKey_busy, latched_withKey]
  repeat' split
  · exact datapathStep_withKey k x s _
  all_goals exact agreesButKey_withKey k x s

theorem bytesWritten_withKey (i : Instr) : bytesWritten i (withKey k x s) = bytesWritten i s := by
  have so := sameOperands_withKey k x s
  cases i
  case ecbEnc => exact so.ecbEncBytes_eq
  case ecbDec => exact so.ecbDecBytes_eq
  case ctrXform => exact so.ctrBytes_eq
  all_goals rfl

theorem commandEnd_withKey {i : Instr} (hi : i ≠ .keyExpand) :
    AgreesButKey (commandEnd i s) (commandEnd i (withKey k x s)) := by
  obtain ⟨k', x', hf⟩ := datapathFinish_withKey k x s i
  have ho : outlenAfter i (withKey k x s) = outlenAfter i s := by
    cases i <;> simp only [outlenAfter, unpadValue_withKey] <;> rfl
  have hu : unpadFails i (withKey k x s) = unpadFails i s := by
    rw [unpadFails, unpadValue_withKey]; rfl
  have hd : doutAfter i (withKey k x s) = doutAfter i s := by cases i <;> rfl
  have hp : poutAfter i (withKey k x s) = poutAfter i s := by cases i <;> rfl
  refine ⟨k', x', ?_⟩
  unfold commandEnd
  simp only [hf, ho, hu, hd, hp, bytesWritten_withKey, if_neg hi]; rfl

end

section
variable {s t : State}

/-- A command but KEY_EXPAND answers the same whatever KEY and Xw are. -/
theorem exec_withKey {i : Instr} (k x : Quad) (h : exec i s = .next t) (hi : i ≠ .keyExpand) :
    ∃ u, exec i (withKey k x s) = .next u ∧ AgreesButKey t u := by
  have he := (sameOperands_withKey k x s).earlyError_eq i
  cases hs : earlyError i s with
  | some c =>
    rw [exec_of_earlyError hs] at h; cases h
    exact ⟨_, exec_of_earlyError (he.trans hs), k, x, rfl⟩
  | none =>
    rw [exec_of_no_earlyError hs] at h; cases h
    exact ⟨_, exec_of_no_earlyError (he.trans hs), commandEnd_withKey k x s hi⟩

theorem engineLast_of_idle (hb : s.busy = false) : engineLast s = .next s := by
  simp [engineLast, hb]

theorem engineLast_withKey (k x : Quad) (h : engineLast s = .next t)
    (hn : ¬(s.busy = true ∧ latched s = .ok .keyExpand)) :
    ∃ u, engineLast (withKey k x s) = .next u ∧ AgreesButKey t u := by
  obtain ⟨hb, rfl⟩ | ⟨i, hb, hl, he⟩ := engineLast_cases h
  · exact ⟨_, engineLast_of_idle hb, agreesButKey_withKey k x _⟩
  · rw [engineLast_of_latched (s := withKey k x s) hb hl]
    exact exec_withKey k x he fun hi => hn ⟨hb, hi ▸ hl⟩

theorem registerAccess_withKey (k x : Quad) {size addr : Nat} {access : Nat → State → State}
    (ha : ∀ off, AgreesButKey (access off s) (access off (withKey k x s)))
    (h : registerAccess size addr access s = .next t) :
    ∃ u, registerAccess size addr access (withKey k x s) = .next u ∧ AgreesButKey t u := by
  unfold registerAccess at h ⊢
  rw [withKey_cfg]
  split at h
  next off ho => cases h; exact ⟨_, rfl, ha off⟩
  next => cases h

theorem hostAccess_withKey (k x : Quad) {op : HostOp} (h : hostAccess op s = .next t) :
    ∃ u, hostAccess op (withKey k x s) = .next u ∧ AgreesButKey t u := by
  cases op with
  | regRead size addr => exact registerAccess_withKey k x (regRead_withKey k x s) h
  | regWrite size addr v => exact registerAccess_withKey k x (fun off => regWrite_withKey k x s off v) h
  | bufRead a =>
    simp only [hostAccess] at h
    split at h
    next ha => cases h; exact ⟨_, if_pos ha, bufRead_withKey k x s a⟩
    next => cases h
  | bufWrite a b =>
    simp only [hostAccess] at h
    split at h
    next ha =>
      split at h
      next => cases h
      next hr => cases h; exact ⟨_, (if_pos ha).trans (if_neg hr), k, x, rfl⟩
    next => cases h

theorem hostStep_of_released {op : HostOp} (hr : s.rstAsserted = false) : hostStep op s = hostAccess op s := by
  simp [hostStep, hr]

theorem hostStep_withKey (k x : Quad) {op : HostOp} (h : hostStep op s = .next t) :
    ∃ u, hostStep op (withKey k x s) = .next u ∧ AgreesButKey t u := by
  obtain ⟨hr, -⟩ := hostStep_cases h
  rw [hostStep_of_released hr] at h
  rw [hostStep_of_released (s := withKey k x s) hr]
  exact hostAccess_withKey k x h

theorem perform_withKey (k x : Quad) {e : Event} (h : perform e s = .next t)
    (hn : ¬(s.busy = true ∧ latched s = .ok .keyExpand ∧ e = .engineLast)) :
    ∃ u, perform e (withKey k x s) = .next u ∧ AgreesButKey t u := by
  cases e with
  | host op => exact hostStep_withKey k x h
  | engineStep => cases h; exact ⟨_, rfl, engineStep_withKey k x s⟩
  | engineLast => exact engineLast_withKey k x h fun ⟨hb, hl⟩ => hn ⟨hb, hl, rfl⟩
  | resetAssert powerOn =>
    cases h
    exact ⟨_, congrArg Host.Outcome.next (hardwareReset_withKey k x s powerOn), .refl _⟩
  | resetRelease => cases h; exact ⟨_, rfl, k, x, rfl⟩

end

/-- Settles O58: each event but the end of KEY_EXPAND takes states that agree but for KEY and Xw to such states. -/
theorem keyInfluencesNothingUntilExpanded : Obligations.KeyInfluencesNothingUntilExpanded := by
  intro s t k x h hn
  have hne : nextEvent (withKey k x s) = nextEvent s := rfl
  change ∃ k' x', step (withKey k x s) = .next (withKey k' x' t)
  obtain ⟨he, rfl⟩ | ⟨e, he, hp⟩ := step_cases h
  · exact ⟨k, x, by rw [step, hne, he]⟩
  · obtain ⟨u, hu, k', x', rfl⟩ := perform_withKey k x hp fun ⟨hb, hl, hlast⟩ => hn ⟨hb, hl, hlast ▸ he⟩
    exact ⟨k', x', by rw [step, hne, he]; exact hu⟩

end Sys2Proof.Machine
end

section
/-! # Host accesses to BUF and the host's contract (O46, O47, O54)

A BUF access is decided by whether its address lies in a region of the running buffer command; while none runs it never
does (R89, R90). Of the events only a host operation can stop a step, since a busy engine has a command latched and every
command answers a next state. -/

namespace Sys2Proof.Machine

open Sys2Proof

/-! ## The regions of the running command -/

section
variable {s : State}

theorem isBuffer_iff {i : Instr} : isBuffer i = true ↔ i ∈ [Instr.ecbEnc, .ecbDec, .ctrXform] := by
  cases i <;> decide

theorem outMax_of_isBuffer {i : Instr} (h : isBuffer i = true) :
    outMax i s = if i = .ecbEnc then s.len.toNat + (16 - s.len.toNat % 16) else s.len.toNat := by
  cases i
  case ecbEnc | ecbDec | ctrXform => rfl
  all_goals cases h

theorem inRange_iff {a start n : Nat} : inRange a start n = true ↔ start ≤ a ∧ a < start + n := by
  simp [inRange]

theorem runningBuffer_of_not_isBuffer {i : Instr} (hl : latched s = .ok i) (hi : isBuffer i = false) :
    runningBuffer s = none := by
  simp [runningBuffer, hl, hi]

theorem busyDestination_of_no_buffer (h : runningBuffer s = none) (a : Nat) : busyDestination s a = false := by
  rw [busyDestination, h]

theorem busySource_of_no_buffer (h : runningBuffer s = none) (a : Nat) : busySource s a = false := by
  rw [busySource, h]

theorem busyDestination_of_latched {i : Instr} (hb : s.busy = true) (hl : latched s = .ok i) (a : Nat) :
    busyDestination s a = inDestination i s a := by
  cases hi : isBuffer i with
  | true => rw [busyDestination, runningBuffer_of hb hl hi]
  | false =>
    rw [busyDestination_of_no_buffer (runningBuffer_of_not_isBuffer hl hi), inDestination, hi, Bool.false_and]

theorem busySource_of_latched {i : Instr} (hb : s.busy = true) (hl : latched s = .ok i) (a : Nat) :
    busySource s a = inSource i s a := by
  cases hi : isBuffer i with
  | true => rw [busySource, runningBuffer_of hb hl hi]
  | false => rw [busySource_of_no_buffer (runningBuffer_of_not_isBuffer hl hi), inSource, hi, Bool.false_and]

/-- The destination region in the words of R85 and R90. -/
theorem inDestination_iff {i : Instr} {a : Nat} : inDestination i s a = true ↔
    i ∈ [Instr.ecbEnc, .ecbDec, .ctrXform] ∧ s.dst.toNat ≤ a
      ∧ a < s.dst.toNat + if i = .ecbEnc then s.len.toNat + (16 - s.len.toNat % 16) else s.len.toNat := by
  rw [inDestination, Bool.and_eq_true, inRange_iff, ← isBuffer_iff]
  exact and_congr_right fun hi => by rw [outMax_of_isBuffer hi]

/-- The source region in the words of R85 and R90. -/
theorem inSource_iff {i : Instr} {a : Nat} : inSource i s a = true ↔
    i ∈ [Instr.ecbEnc, .ecbDec, .ctrXform] ∧ s.src.toNat ≤ a ∧ a < s.src.toNat + s.len.toNat := by
  rw [inSource, Bool.and_eq_true, inRange_iff, ← isBuffer_iff]

/-! ## Steps that access BUF -/

section
variable {a : Nat} {b : Byte} {rest : List Event} (hr : s.rstAsserted = false) (hm : a < s.cfg.memBytes)
include hr hm

theorem step_bufRead (ha : s.agenda = .host (.bufRead a) :: rest) :
    step s = .next (bufRead a { s with agenda := rest }) :=
  (step_of_agenda ha).trans (perform_bufRead hr hm)

theorem step_bufWrite (ha : s.agenda = .host (.bufWrite a b) :: rest) :
    step s = if busySource s a || busyDestination s a then .refused (.hostWriteIntoBusyRegion a)
      else .next (bufWrite a b { s with agenda := rest }) :=
  (step_of_agenda ha).trans (perform_bufWrite hr hm)

theorem step_bufRead_of_destination (hd : busyDestination s a = true) (ha : s.agenda = .host (.bufRead a) :: rest) :
    step s = .next { s with
      agenda := rest, responses := .buf a (Config.drawByte s.draws) :: s.responses, draws := s.draws + 1 } :=
  (step_bufRead hr hm ha).trans (congrArg _ (if_pos hd))

theorem step_bufRead_of_not_destination (hd : busyDestination s a = false)
    (ha : s.agenda = .host (.bufRead a) :: rest) :
    step s = .next { s with agenda := rest, responses := .buf a (bufByte s a) :: s.responses } :=
  (step_bufRead hr hm ha).trans (congrArg _ (if_neg (Bool.eq_false_iff.1 hd)))

theorem step_bufWrite_of_no_region (hs : busySource s a = false) (hd : busyDestination s a = false)
    (ha : s.agenda = .host (.bufWrite a b) :: rest) :
    ∃ t, step s = .next t ∧ t = { s with agenda := rest, buf := t.buf } ∧ bufByte t a = b
      ∧ ∀ x, x ≠ a → bufByte t x = bufByte s x := by
  refine ⟨bufWrite a b { s with agenda := rest }, ?_, rfl, ?_, fun x hx => ?_⟩
  · rw [step_bufWrite hr hm ha, hs, hd]; rfl
  · rw [bufByte_bufWrite, if_pos rfl]
  · rw [bufByte_bufWrite, if_neg hx]; rfl

theorem step_bufWrite_of_region (h : busyDestination s a = true ∨ busySource s a = true)
    (ha : s.agenda = .host (.bufWrite a b) :: rest) : step s = .refused (.hostWriteIntoBusyRegion a) := by
  have hp : (busySource s a || busyDestination s a) = true := by rwa [Bool.or_comm, Bool.or_eq_true]
  rw [step_bufWrite hr hm ha, if_pos hp]

end

end

/-- Settles O46: while idle no address lies in a region of a running command. -/
theorem bufAccessWhileIdle : Obligations.BufAccessWhileIdle := by
  intro s a b rest hr hb hm
  have hn := runningBuffer_of_idle hb
  have hd := busyDestination_of_no_buffer hn a
  exact ⟨step_bufRead_of_not_destination hr hm hd,
    step_bufWrite_of_no_region hr hm (busySource_of_no_buffer hn a) hd⟩

/-- Settles O47: the regions of R90 are those of the latched command, and a command without regions has none. -/
theorem bufAccessWhileBusy : Obligations.BufAccessWhileBusy := by
  intro s i a b rest hr hb hl hm
  dsimp only
  rw [← inDestination_iff, ← inSource_iff, ← busyDestination_of_latched hb hl, ← busySource_of_latched hb hl,
    Bool.not_eq_true, Bool.not_eq_true]
  exact ⟨fun ha => ⟨fun hd => step_bufRead_of_destination hr hm hd ha,
      fun hd => step_bufRead_of_not_destination hr hm hd ha⟩,
    fun ha => ⟨fun hd hs => step_bufWrite_of_no_region hr hm hs hd ha, fun h => step_bufWrite_of_region hr hm h ha⟩⟩

/-! ## The steps that stop -/

section
variable {s : State}

/-- Every command answers a next state, an error included (R149, R343). -/
theorem exec_answers (i : Instr) (s : State) : ∃ t, exec i s = .next t := by
  cases he : earlyError i s with
  | some c => exact ⟨_, exec_of_earlyError he⟩
  | none => exact ⟨_, exec_of_no_earlyError he⟩

/-- A busy engine has a command latched, so its last step never stops (R54, R147). -/
theorem EngineInv.engineLast_answers (h : EngineInv s) : ∃ t, Machine.engineLast s = .next t := by
  cases hb : s.busy with
  | false => exact ⟨s, engineLast_of_idle hb⟩
  | true =>
    obtain ⟨i, hl⟩ := h.busyLatched hb
    rw [engineLast_of_latched hb hl]
    exact exec_answers i s

theorem registerAccess_answers_iff {size addr : Nat} {access : Nat → State → State} :
    (∃ t, registerAccess size addr access s = .next t) ↔ (busOffset s.cfg size addr).isSome = true := by
  unfold registerAccess
  cases busOffset s.cfg size addr <;> simp

/-- With the reset input released, a host operation answers a next state exactly when R143, R89 and R90 allow it. -/
theorem hostAccess_answers_iff {op : HostOp} (hr : s.rstAsserted = false) :
    (∃ t, hostAccess op s = .next t) ↔ hostAllowed op s = true := by
  cases op with
  | regRead size addr => rw [hostAllowed, hr]; exact registerAccess_answers_iff
  | regWrite size addr v => rw [hostAllowed, hr]; exact registerAccess_answers_iff
  | bufRead a => by_cases hm : a < s.cfg.memBytes <;> simp [hostAccess, hostAllowed, hr, hm]
  | bufWrite a b =>
    by_cases hm : a < s.cfg.memBytes
    · cases hs : busySource s a <;> cases hd : busyDestination s a <;> simp [hostAccess, hostAllowed, hr, hm, hs, hd]
    · simp [hostAccess, hostAllowed, hr, hm]

theorem hostStep_answers_iff {op : HostOp} : (∃ t, hostStep op s = .next t) ↔ hostAllowed op s = true := by
  cases hr : s.rstAsserted with
  | false => rw [hostStep_of_released hr, hostAccess_answers_iff hr]
  | true => simp [hostStep, hostAllowed, hr]

theorem EngineInv.perform_answers_iff (h : EngineInv s) (e : Event) :
    (∃ t, Machine.perform e s = .next t) ↔ eventAllowed e s = true := by
  cases e with
  | host op => exact hostStep_answers_iff
  | engineLast => exact iff_of_true h.engineLast_answers rfl
  | engineStep | resetAssert | resetRelease => exact iff_of_true ⟨_, rfl⟩ rfl

end

/-- Settles O54: a step stops only where its next event does, and taking the event off the agenda changes nothing the
contract speaks of. -/
theorem stepStopsOnlyOutsideTheContract : Obligations.StepStopsOnlyOutsideTheContract := by
  intro s h
  unfold step Safe
  cases nextEvent s with
  | none => exact iff_of_true ⟨s, rfl⟩ fun e he => by cases he
  | some e =>
    calc (∃ t, perform e (takeEvent s) = .next t)
        ↔ eventAllowed e (takeEvent s) = true := h.takeEvent.perform_answers_iff e
      _ ↔ ∀ e', some e = some e' → eventAllowed e' s = true :=
        ⟨fun ha e' he => by cases he; exact ha, fun ha => ha e rfl⟩

end Sys2Proof.Machine
end

section
/-! # A command touches only its regions (O37)

With another content of BUF that agrees with it on the source region of a command, the command ends in the same state but
for BUF, and writes the same bytes at DST (R88). -/

namespace Sys2Proof.Machine

open Sys2Proof

/-- `s` with BUF = `m`. -/
def withBuf (m : Memory) (s : State) : State := { s with buf := m }

/-! ## The destination -/

section
variable {i : Instr} {s : State}

theorem bytesWritten_length (h : earlyError i s = none) : (bytesWritten i s).length = outMax i s := by
  cases i
  case ecbEnc => exact ecbEncBytes_length s
  case ecbDec => exact ecbDecBytes_length s (earlyError_ecbDec_eq_none.1 h).2.1.2
  case ctrXform => exact ctrBytes_length s
  all_goals rfl

theorem outMax_of_not_isBuffer (h : isBuffer i = false) : outMax i s = 0 := by
  cases i
  case ecbEnc | ecbDec | ctrXform => cases h
  all_goals rfl

/-- BUF at the end of a command that passes its early checks: the bytes written inside the destination region, and the
bytes that were there outside it. -/
theorem bufByte_commandEnd (h : earlyError i s = none) (a : Nat) :
    bufByte (commandEnd i s) a = if s.dst.toNat ≤ a ∧ a < s.dst.toNat + outMax i s
      then (bytesWritten i s).getD (a - s.dst.toNat) 0 else bufByte s a := by
  rw [bufByte_of_memWrite (s := s) (t := commandEnd i s) rfl (datapathFinish_launch i s), bytesWritten_length h]

/-- A command writes no byte outside its destination region (R88). -/
theorem bufByte_exec_outside {t : State} (h : exec i s = .next t) {a : Nat}
    (ha : ¬(isBuffer i = true ∧ s.dst.toNat ≤ a ∧ a < s.dst.toNat + outMax i s)) : bufByte t a = bufByte s a := by
  cases he : earlyError i s with
  | some c => rw [exec_of_earlyError he] at h; cases h; rfl
  | none =>
    rw [exec_of_no_earlyError he] at h; cases h
    rw [bufByte_commandEnd he, if_neg]
    intro hin
    cases hi : isBuffer i with
    | true => exact ha ⟨hi, hin⟩
    | false => rw [outMax_of_not_isBuffer hi] at hin; omega

end

/-! ## The source -/

section
variable {i : Instr} {m : Memory} {s : State}

theorem earlyError_withBuf : earlyError i (withBuf m s) = earlyError i s := by cases i <;> rfl

theorem outMax_withBuf : outMax i (withBuf m s) = outMax i s := by cases i <;> rfl

theorem runsBlocks_withBuf : runsBlocks i (withBuf m s) = runsBlocks i s := by cases i <;> rfl

theorem blockCount_withBuf : blockCount i (withBuf m s) = blockCount i s := by cases i <;> rfl

/-- BUF `m` agrees with that of `s` on the source region of command `i`. -/
def AgreesOnSource (i : Instr) (m : Memory) (s : State) : Prop :=
  isBuffer i = true → sourceBytes (withBuf m s) = sourceBytes s

theorem agreesOnSource_of_bufByte (h : ∀ a, isBuffer i = true → s.src.toNat ≤ a →
    a < s.src.toNat + s.len.toNat → bufByte (withBuf m s) a = bufByte s a) : AgreesOnSource i m s :=
  fun hi => memRead_congr _ _ fun a => h a hi

theorem AgreesOnSource.blockWords_eq (h : AgreesOnSource i m s) (k : Nat) :
    blockWords i k (withBuf m s) = blockWords i k s := by
  cases i
  case ecbEnc | ecbDec => simp only [blockWords, h rfl]
  all_goals rfl

theorem AgreesOnSource.bytesWritten_eq (h : AgreesOnSource i m s) :
    bytesWritten i (withBuf m s) = bytesWritten i s := by
  cases i
  case ecbEnc => simp only [bytesWritten, ecbEncBytes, h rfl]; rfl
  case ecbDec => simp only [bytesWritten, ecbDecBytes, h rfl]; rfl
  case ctrXform => simp only [bytesWritten, ctrBytes, h rfl]; rfl
  all_goals rfl

theorem AgreesOnSource.unpadValue_eq (h : AgreesOnSource .ecbDec m s) : unpadValue (withBuf m s) = unpadValue s :=
  congrArg (fun d : List Byte => (d.getD (s.len.toNat - 1) 0).toNat) h.bytesWritten_eq

theorem AgreesOnSource.datapathFinish_eq (h : AgreesOnSource i m s) :
    datapathFinish i (withBuf m s) = withBuf m (datapathFinish i s) := by
  unfold datapathFinish loadBlock
  rw [runsBlocks_withBuf, blockCount_withBuf, h.blockWords_eq]
  repeat' split
  all_goals rfl

/-- The end of a command depends on BUF through its source region only, and writes the same bytes. -/
theorem AgreesOnSource.commandEnd_eq (h : AgreesOnSource i m s) :
    commandEnd i (withBuf m s) = withBuf (memWrite m s.dst.toNat (bytesWritten i s)) (commandEnd i s) := by
  have hu : unpadFails i (withBuf m s) = unpadFails i s := by
    cases i
    case ecbDec => rw [unpadFails, h.unpadValue_eq]; rfl
    all_goals rfl
  have ho : outlenAfter i (withBuf m s) = outlenAfter i s := by
    cases i
    case ecbDec => rw [outlenAfter, h.unpadValue_eq]; rfl
    all_goals rfl
  have hd : doutAfter i (withBuf m s) = doutAfter i s := by cases i <;> rfl
  have hp : poutAfter i (withBuf m s) = poutAfter i s := by cases i <;> rfl
  unfold commandEnd
  simp only [h.datapathFinish_eq, h.bytesWritten_eq, hu, ho, hd, hp]; rfl

/-- With another BUF that agrees on the source region, a command answers the same state but for BUF, and the same
destination bytes when no early error stops it (R88). -/
theorem AgreesOnSource.exec_eq {t : State} (h : AgreesOnSource i m s) (hx : exec i s = .next t) :
    ∃ t', exec i (withBuf m s) = .next t' ∧ t' = withBuf t'.buf t
      ∧ (earlyError i s = none → ∀ a, s.dst.toNat ≤ a → a < s.dst.toNat + outMax i s →
          bufByte t' a = bufByte t a) := by
  have hw := earlyError_withBuf (i := i) (m := m) (s := s)
  cases he : earlyError i s with
  | some c =>
    rw [exec_of_earlyError he] at hx; cases hx
    exact ⟨_, exec_of_earlyError (hw.trans he), rfl, fun hn => by cases hn⟩
  | none =>
    have hn := hw.trans he
    rw [exec_of_no_earlyError he] at hx; cases hx
    refine ⟨_, exec_of_no_earlyError hn, by rw [h.commandEnd_eq]; rfl, fun _ a h1 h2 => ?_⟩
    rw [bufByte_commandEnd he, if_pos ⟨h1, h2⟩, bufByte_commandEnd hn, outMax_withBuf, h.bytesWritten_eq]
    exact if_pos ⟨h1, h2⟩

end

/-- Settles O37: the frame of the destination, and the dependence on the source. -/
theorem commandsTouchOnlyTheirRegions : Obligations.CommandsTouchOnlyTheirRegions := by
  intro i s t hx
  refine ⟨fun a ha => bufByte_exec_outside hx ha, fun m hm => ?_⟩
  obtain ⟨t', ht, hb, hd⟩ := (agreesOnSource_of_bufByte hm).exec_eq hx
  exact ⟨t', ht, hb, fun he a _ => hd he a⟩

end Sys2Proof.Machine
end

section
/-! # Decoding (O5, O4)

A command word is its OP when RSV is 0 (R110, R111), and each OP value is a command's own or reserved (R112). So a word
either is the encoding of a command, and decodes to it, or is not well formed, and is illegal (R113, R119). -/

namespace Sys2Proof.Machine

open Sys2Proof

/-! ## The opcode map -/

theorem decodeOp_of_reserved (op : BitVec 4) (h : op ∈ reservedOps) :
    decodeOp op = .error (.reservedOpcode op) := by
  simp only [reservedOps, List.mem_cons, List.not_mem_nil, or_false] at h
  obtain rfl | rfl | rfl | rfl | rfl := h <;> rfl

/-- Each OP value that is not reserved is the OP of a command (R112). -/
theorem exists_opcode_of_not_reserved {op : BitVec 4} (h : op ∉ reservedOps) : ∃ i, op = opcode i := by
  have hall : ∀ op ∉ reservedOps, op ∈ [.keyExpand, .encBlock, .decBlock, .ecbEnc, .ecbDec, .ctrXform, .primS,
      .primL, .primLp, .primT, .primTp].map opcode := by decide
  obtain ⟨i, -, hi⟩ := List.mem_map.1 (hall op h)
  exact ⟨i, hi.symm⟩

/-! ## Command words -/

section
variable {w : Word}

theorem decode_of_rsv_ne_zero (h : w.extractLsb' 4 28 ≠ 0) : decode w = .error .reservedBits := if_neg h

theorem decode_of_rsv_eq_zero (h : w.extractLsb' 4 28 = 0) : decode w = decodeOp (w.extractLsb' 0 4) := if_pos h

/-- A word with RSV = 0 is its OP, extended with zeros (R110). -/
theorem eq_setWidth_of_rsv_eq_zero (h : w.extractLsb' 4 28 = 0) : w = (w.extractLsb' 0 4).setWidth 32 := by
  have hrsv : w.toNat / 2 ^ 4 % 2 ^ 28 = 0 := by
    simpa [Nat.shiftRight_eq_div_pow] using congrArg BitVec.toNat h
  apply BitVec.eq_of_toNat_eq
  simp only [BitVec.toNat_setWidth, BitVec.extractLsb'_toNat, Nat.shiftRight_zero]
  omega

theorem wellFormedWord_eq_false_iff :
    wellFormedWord w = false ↔ w.extractLsb' 4 28 ≠ 0 ∨ w.extractLsb' 0 4 ∈ reservedOps := by
  simp [wellFormedWord, or_iff_not_imp_left]

theorem decode_of_not_wellFormedWord (h : wellFormedWord w = false) : ∃ e, decode w = .error e := by
  by_cases hr : w.extractLsb' 4 28 = 0
  · have ho := (wellFormedWord_eq_false_iff.1 h).resolve_left (not_not_intro hr)
    exact ⟨_, (decode_of_rsv_eq_zero hr).trans (decodeOp_of_reserved _ ho)⟩
  · exact ⟨_, decode_of_rsv_ne_zero hr⟩

theorem eq_encode_of_wellFormedWord (h : wellFormedWord w = true) : ∃ i, w = encode i := by
  have hn := mt wellFormedWord_eq_false_iff.2 (ne_false_of_eq_true h)
  obtain ⟨hr, ho⟩ := not_or.1 hn
  obtain ⟨i, hi⟩ := exists_opcode_of_not_reserved ho
  exact ⟨i, by rw [encode, ← hi]; exact eq_setWidth_of_rsv_eq_zero (not_not.1 hr)⟩

/-- A word is the encoding of the command it decodes to, or it is not well formed and illegal (R113, R119). -/
theorem decode_cases (w : Word) :
    (∃ i, w = encode i ∧ decode w = .ok i ∧ wellFormedWord w = true)
      ∨ ∃ e, decode w = .error e ∧ wellFormedWord w = false := by
  cases h : wellFormedWord w with
  | true =>
    obtain ⟨i, rfl⟩ := eq_encode_of_wellFormedWord h
    exact .inl ⟨i, rfl, decode_encode i, rfl⟩
  | false =>
    obtain ⟨e, he⟩ := decode_of_not_wellFormedWord h
    exact .inr ⟨e, he, rfl⟩

theorem decode_eq_ok_iff {i : Instr} : decode w = .ok i ↔ w = encode i := by
  refine ⟨fun h => ?_, fun h => h ▸ decode_encode i⟩
  obtain ⟨j, hw, hj, -⟩ | ⟨e, he, -⟩ := decode_cases w
  · cases h.symm.trans hj; exact hw
  · cases h.symm.trans he

theorem exists_decode_eq_ok_iff : (∃ i, decode w = .ok i) ↔ wellFormedWord w = true := by
  obtain ⟨i, -, hd, hw⟩ | ⟨e, hd, hw⟩ := decode_cases w <;> simp [hd, hw]

theorem exists_decode_eq_error_iff : (∃ e, decode w = .error e) ↔ wellFormedWord w = false := by
  obtain ⟨i, -, hd, hw⟩ | ⟨e, hd, hw⟩ := decode_cases w <;> simp [hd, hw]

end

/-- Settles O5: a word is the encoding of the command it decodes to, or it is not well formed and illegal. -/
theorem decodeAcceptsExactlyTheOpcodeMap : Obligations.DecodeAcceptsExactlyTheOpcodeMap := by
  intro w
  have hi (i : Instr) : decode w = .ok i ↔ w = encode i := decode_eq_ok_iff
  exact ⟨hi .keyExpand, hi .encBlock, hi .decBlock, hi .ecbEnc, hi .ecbDec, hi .ctrXform, hi .primS, hi .primL,
    hi .primLp, hi .primT, hi .primTp, exists_decode_eq_error_iff.trans wellFormedWord_eq_false_iff, hi,
    exists_decode_eq_ok_iff⟩

/-- Settles O4: the 11 words are the commands' encodings; of the others two have a reserved OP and two have RSV ≠ 0. -/
theorem opcodeTableWordsDecode : Obligations.OpcodeTableWordsDecode :=
  ⟨decode_encode .keyExpand, decode_encode .encBlock, decode_encode .decBlock, decode_encode .ecbEnc,
    decode_encode .ecbDec, decode_encode .ctrXform, decode_encode .primS, decode_encode .primL, decode_encode .primLp,
    decode_encode .primT, decode_encode .primTp, decodeOp_of_reserved 0x0 (by decide),
    decodeOp_of_reserved 0x7 (by decide), decode_of_rsv_ne_zero (by decide), decode_of_rsv_ne_zero (by decide)⟩

end Sys2Proof.Machine
end

section
/-! # Execution of the latched command (O36, O53, O6, O7, O32)

The engine's last step is `exec` of the command OPC holds, which completes in every state and keeps the operands (R149,
R150). Internal steps before it, like the host's side of the state, change nothing that `exec` reads (R56). -/

namespace Sys2Proof.Machine

open Sys2Proof

/-! ## Completion (R150) -/

/-- A command, failed or not, keeps the operands and the host's side of the state. -/
theorem exec_operandsKept {i : Instr} {s t : State} (h : exec i s = .next t) : OperandsKept s t := by
  obtain ⟨c, rfl⟩ | rfl := exec_ends h
  · simp [OperandsKept]
  · simp [OperandsKept, commandEnd]

/-- Settles O36: an early error and the end of a command both complete and keep the operands. -/
theorem everyCommandCompletesAndKeepsItsOperands : Obligations.EveryCommandCompletesAndKeepsItsOperands := by
  intro i s
  obtain ⟨t, h⟩ := exec_answers i s
  exact ⟨t, h, exec_busy h, exec_done h, exec_operandsKept h⟩

/-! ## The number of internal steps (R56, R149) -/

/-- `s` with the coming events `l`. -/
def withAgenda (l : List Event) (s : State) : State := { s with agenda := l }

section
variable {i : Instr} {s : State}

/-- A command that is not KEY_EXPAND and puts no block through the datapath has no internal work. -/
theorem datapathStep_of_no_work (hk : i ≠ .keyExpand) (hr : runsBlocks i s = false) : datapathStep i s = s := by
  rw [datapathStep, if_neg hk, if_neg (Bool.eq_false_iff.1 hr)]

theorem earlyError_of_runsBlocks (h : runsBlocks i s = true) : earlyError i s = none := by
  simp only [runsBlocks, Bool.and_eq_true, Option.isNone_iff_eq_none] at h
  exact h.1.2

theorem commandEnd_datapathStep (i : Instr) (s : State) : commandEnd i (datapathStep i s) = commandEnd i s := by
  have so := sameOperands_datapathStep i s
  have hd : doutAfter i (datapathStep i s) = doutAfter i s := by cases i <;> simp [doutAfter]
  have hp : poutAfter i (datapathStep i s) = poutAfter i s := by cases i <;> simp [poutAfter]
  have hw : bytesWritten i (datapathStep i s) = bytesWritten i s := by
    cases i <;> simp only [bytesWritten, so.ecbEncBytes_eq, so.ecbDecBytes_eq, so.ctrBytes_eq]
  have ho : outlenAfter i (datapathStep i s) = outlenAfter i s := by
    cases i <;> simp [outlenAfter, so.outMax_eq, so.unpadValue_eq]
  have hu : unpadFails i (datapathStep i s) = unpadFails i s := by
    rw [unpadFails, so.unpadValue_eq, so.len, unpadFails]
  simp [commandEnd, datapathFinish_datapathStep, hd, hp, hw, ho, hu]

/-- An internal step changes no result of its command: with an early error there is none to take, and otherwise the end
reads the operands, which it keeps. -/
theorem exec_datapathStep (i : Instr) (s : State) : exec i (datapathStep i s) = exec i s := by
  cases he : earlyError i s with
  | none =>
    have he' := ((sameOperands_datapathStep i s).earlyError_eq i).trans he
    rw [exec_of_no_earlyError he, exec_of_no_earlyError he', commandEnd_datapathStep]
  | some c =>
    have hk : i ≠ .keyExpand := by rintro rfl; cases he
    have hr : runsBlocks i s = false := by
      rw [Bool.eq_false_iff]
      intro hr
      cases he.symm.trans (earlyError_of_runsBlocks hr)
    rw [datapathStep_of_no_work hk hr]

/-- The datapath does not read the agenda. -/
theorem datapathStep_withAgenda (i : Instr) (l : List Event) (s : State) :
    datapathStep i (withAgenda l s) = withAgenda l (datapathStep i s) := by
  have so : SameOperands s (withAgenda l s) := by constructor <;> rfl
  have hd : SameDatapath s (withAgenda l s) := by constructor <;> rfl
  rw [datapathStep_frame i (withAgenda l s), withDatapathOf_congr (so.datapathStep hd i), datapathStep_frame i s]
  rfl

/-- An internal step of the latched command. -/
theorem step_of_engineStep {rest : List Event} (hb : s.busy = true) (hl : latched s = .ok i)
    (ha : s.agenda = .engineStep :: rest) : step s = .next (withAgenda rest (datapathStep i s)) := by
  rw [step_of_agenda ha, ← datapathStep_withAgenda]
  exact congrArg Host.Outcome.next (engineStep_of_latched (s := withAgenda rest s) hb hl)

/-- The last step of the latched command. -/
theorem step_of_engineLast {rest : List Event} (hb : s.busy = true) (hl : latched s = .ok i)
    (ha : s.agenda = .engineLast :: rest) : step s = exec i (withAgenda rest s) :=
  (step_of_agenda ha).trans (engineLast_of_latched (s := withAgenda rest s) hb hl)

end

/-- Settles O53, by induction on the number of internal steps: the first one keeps the latched command and what `exec`
answers. -/
theorem resultIsIndependentOfLatency : Obligations.ResultIsIndependentOfLatency := by
  intro s i n rest hb hl ha
  induction n generalizing s with
  | zero => exact (core_run_one s).trans (step_of_engineLast hb hl ha)
  | succ n ih =>
    rw [List.replicate_succ] at ha
    have hb' : (datapathStep i s).busy = true := (datapathStep_busy i s).trans hb
    have hl' : latched (datapathStep i s) = .ok i := (latched_congr (datapathStep_opc i s)).trans hl
    have hrun := ih (withAgenda (List.replicate n .engineStep ++ .engineLast :: rest) (datapathStep i s)) hb' hl' rfl
    have hexec : exec i (withAgenda rest (datapathStep i s)) = exec i (withAgenda rest s) := by
      rw [← datapathStep_withAgenda, exec_datapathStep]
    exact ((core_run_succ (step_of_engineStep hb hl ha)).trans hrun).trans hexec

/-! ## The latched command (R54) -/

/-- The OP field of a command's word (R110, R112). -/
theorem encode_op (i : Instr) : (encode i).extractLsb' 0 4 = opcode i := by cases i <;> rfl

theorem op_of_decode {w : Word} {i : Instr} (h : decode w = .ok i) : w.extractLsb' 0 4 = opcode i := by
  rw [decode_eq_ok_iff.1 h, encode_op]

/-- Settles O6: the OP field of a word that decodes to a command is that command latched. -/
theorem stepRunsTheLatchedCommand : Obligations.StepRunsTheLatchedCommand := by
  intro s w i hd hb ho
  have hl : latched s = .ok i := latched_of_opc (ho.trans (op_of_decode hd))
  exact ⟨fun rest ha => step_of_engineLast hb hl ha,
    fun ha => (step_of_busy hb ha).trans (engineLast_of_latched hb hl)⟩

/-! ## A presented word (Log 7) -/

section
variable {s : State} {w : Word} {i : Instr}

/-- An accepted command is latched. -/
theorem acceptCommand_latched (i : Instr) (s : State) : latched (acceptCommand i s) = .ok i :=
  latched_of_opc (by rw [acceptCommand, datapathStart_opc])

theorem acceptCommand_busy (i : Instr) (s : State) : (acceptCommand i s).busy = true := by
  rw [acceptCommand, datapathStart_busy]

/-- The datapath does not read the reset input. -/
theorem datapathStart_released (i : Instr) (s : State) :
    datapathStart i { s with rstAsserted := false } = { datapathStart i s with rstAsserted := false } := by
  have so : SameOperands s { s with rstAsserted := false } := by constructor <;> rfl
  have hd : SameDatapath s { s with rstAsserted := false } := by constructor <;> rfl
  rw [datapathStart_frame i { s with rstAsserted := false },
    withDatapathOf_congr (so.datapathStart hd i fun _ => rfl), datapathStart_frame i s]
  rfl

/-- A word that decodes to a command runs as `exec` of it on the accepted state. -/
theorem step_presentWord_of_ok (h : decode w = .ok i) :
    step (presentWord w s)
      = exec i (acceptCommand i { s with done := false, err := false, errcode := 0, rstAsserted := false }) := by
  let a : State := acceptCommand i { s with done := false, err := false, errcode := 0 }
  have ha : a.agenda = s.agenda := datapathStart_agenda i _
  calc step (presentWord w s)
      = step { a with rstAsserted := false, agenda := .engineLast :: s.agenda } := by rw [presentWord, h]
    _ = exec i { a with rstAsserted := false, agenda := s.agenda } :=
      step_of_engineLast (acceptCommand_busy i _) (acceptCommand_latched i _) rfl
    _ = exec i { a with rstAsserted := false } := by rw [← ha]
    _ = exec i (acceptCommand i { s with done := false, err := false, errcode := 0, rstAsserted := false }) :=
      congrArg (exec i) (datapathStart_released i _).symm

/-- An illegal word is rejected within its CMD write (R147). -/
theorem step_presentWord_of_error {e : Illegal} (h : decode w = .error e) :
    step (presentWord w s) = .next
      { s with busy := false, rstAsserted := false, done := true, err := true, errcode := 1 } := by
  rw [presentWord, h, step_regWrite rfl (off := 0x004) (by decide) (by decide) rfl]
  simp [regWrite, regAt, cmdWrite, h, ErrorCode.code]

theorem decodeTableWord_eq_some {nbits n : Nat} (h : decodeTableWord nbits n = some i) :
    decode (BitVec.ofNat 32 (n % 2 ^ nbits)) = .ok i := by
  unfold decodeTableWord at h
  split at h
  · cases hd : decode (BitVec.ofNat 32 (n % 2 ^ nbits)) with
    | ok j => rw [hd] at h; cases h; rfl
    | error e => rw [hd] at h; cases h
  · cases h

theorem decodeTableWord_eq_none {nbits n : Nat} (hn : nbits ≤ 32) (h : decodeTableWord nbits n = none) :
    ∃ e, decode (BitVec.ofNat 32 (n % 2 ^ nbits)) = .error e := by
  rw [decodeTableWord, if_pos hn] at h
  cases hd : decode (BitVec.ofNat 32 (n % 2 ^ nbits)) with
  | ok j => rw [hd] at h; cases h
  | error e => exact ⟨e, rfl⟩

end

/-- Settles O7: `withFetchWord` presents the word, which is a command's or illegal. -/
theorem stepRunsThePresentedWord : Obligations.StepRunsThePresentedWord := by
  intro s nbits w
  refine ⟨fun i h => step_presentWord_of_ok (decodeTableWord_eq_some h), fun hn h => ?_⟩
  obtain ⟨e, he⟩ := decodeTableWord_eq_none hn h
  exact step_presentWord_of_error he

/-! ## The subkey requirement (R151) -/

section
variable {s : State} {i : Instr}

theorem exec_of_no_subkeys (hk : s.rkValid = false) (hi : needsSubkeys i = true) :
    exec i s = .next (raiseError i .nokey s) := by
  apply exec_of_earlyError
  cases i
  case keyExpand | primS | primL | primLp | primT | primTp => cases hi
  all_goals simp [earlyError, keyError, errorIf, hk]

/-- A command without the subkey requirement has no error of its own. -/
theorem exec_record_of_needs_no_subkeys (hi : needsSubkeys i = false) :
    ∃ t, exec i s = .next t ∧ t.err = s.err ∧ t.errcode = s.errcode ∧ t.done = true := by
  have he : earlyError i s = none := by
    cases i
    case keyExpand | primS | primL | primLp | primT | primTp => rfl
    all_goals cases hi
  have hu : unpadFails i s = false := by
    cases i
    case ecbDec => cases hi
    all_goals rfl
  exact ⟨_, exec_of_no_earlyError he, by simp [commandEnd, hu], by simp [commandEnd, hu], rfl⟩

end

/-- Settles O32: the check of R151 comes first in the five commands that make it. -/
theorem subkeysAreRequired : Obligations.SubkeysAreRequired := by
  intro s hk
  refine ⟨exec_of_no_subkeys hk rfl, exec_of_no_subkeys hk rfl, exec_of_no_subkeys hk rfl, exec_of_no_subkeys hk rfl,
    exec_of_no_subkeys hk rfl, fun i hi => exec_record_of_needs_no_subkeys ?_⟩
  revert i
  decide

end Sys2Proof.Machine
end

section
/-! # CMD and STATUS writes, and illegal accesses (O38, O39, O43, O44) -/

namespace Sys2Proof.Machine

open Sys2Proof

/-! ## CMD and STATUS -/

/-- A flag with its write-1-to-clear bit `c` (R144). -/
theorem clearFlag_eq (c b : Bool) : (if c then false else b) = (b && !c) := by
  cases c
  · exact (Bool.and_true b).symm
  · exact (Bool.and_false b).symm

/-- Settles O44: each flag is kept unless its write-1-to-clear bit is set. -/
theorem statusWriteClears : Obligations.StatusWriteClears := by
  intro s v
  simp only [statusWrite, clearFlag_eq]

section
variable {s : State} {w : Word}

theorem cmdWrite_of_busy (hb : s.busy = true) : cmdWrite w s = { s with ovr := true } := if_pos hb

theorem cmdWrite_of_illegal {e : Illegal} (hb : s.busy = false) (h : decode w = .error e) :
    cmdWrite w s = { s with done := true, err := true, errcode := 1 } := by
  rw [cmdWrite, if_neg (Bool.eq_false_iff.1 hb), h]; rfl

theorem cmdWrite_of_legal {i : Instr} (hb : s.busy = false) (h : decode w = .ok i) :
    cmdWrite w s = acceptCommand i { s with done := false, err := false, errcode := 0 } := by
  rw [cmdWrite, if_neg (Bool.eq_false_iff.1 hb), h]

end

/-- Settles O38: acceptance latches the OP of the word, and the start of the datapath changes hidden registers only. -/
theorem acceptanceOfACommandWord : Obligations.AcceptanceOfACommandWord := by
  intro s w hb
  refine ⟨fun e he => cmdWrite_of_illegal hb he, fun i hi => ⟨_, rfl, ?_⟩⟩
  rw [cmdWrite_of_legal hb hi, op_of_decode hi, acceptCommand, datapathStart_frame]
  rfl

/-- Settles O39: the write at offset 4 is a CMD write. -/
theorem commandWriteWhileBusyOnlySetsOvr : Obligations.CommandWriteWhileBusyOnlySetsOvr := by
  intro s w rest hr hb ha
  rw [step_regWrite hr (by decide) (by decide) ha]
  exact congrArg Host.Outcome.next (cmdWrite_of_busy (s := { s with agenda := rest }) hb)

/-! ## Illegal accesses -/

section
variable {s : State} {size addr : Nat}

theorem busOffset_of_illegal {c : Config}
    (h : size ≠ 32 ∨ addr < c.regBase ∨ c.regBase + 0x100 ≤ addr ∨ (addr - c.regBase) % 4 ≠ 0) :
    busOffset c size addr = none := by
  rw [busOffset, if_neg]
  omega

theorem registerAccess_of_illegal {access : Nat → State → State} (h : busOffset s.cfg size addr = none) :
    registerAccess size addr access s = .fault (.hostBusError ((addr : Int) - (s.cfg.regBase : Int))) := by
  rw [registerAccess, h]

end

/-- Settles O43: such an access has no offset in the window, whether it reads or writes. -/
theorem illegalAccessIsABusError : Obligations.IllegalAccessIsABusError := by
  intro s size addr v rest hr hi ha
  have ho := busOffset_of_illegal hi
  obtain ha | ha := ha
  all_goals
    rw [step_of_agenda ha]
    exact (hostStep_of_released (s := { s with agenda := rest }) hr).trans (registerAccess_of_illegal ho)

end Sys2Proof.Machine
end

section
/-! # The map of the register window (O41, O42)

The register that `regAt` finds at an offset decides what an access does there (R31); R141 and R142 give the value read
and the effect of the write. -/

namespace Sys2Proof.Machine

open Sys2Proof

/-! ## Offsets (R31) -/

/-- The index of the register at `off` in a group of `n` at `base`. -/
theorem exists_index {off base n : Nat} (h4 : off % 4 = 0) (hbase : base % 4 = 0) (hl : base ≤ off)
    (hu : off < base + 4 * n) : ∃ i : Fin n, off = base + 4 * i.val :=
  ⟨⟨(off - base) / 4, by omega⟩, by dsimp only; omega⟩

theorem regAt_reserved : ∀ off < 0x080, 0x068 ≤ off → regAt off = .reserved := by decide +kernel

/-- The offsets of the result registers: DOUT, OUTLEN, POUT and RK (R146). -/
theorem isResult_regAt : ∀ off < 0x100, off % 4 = 0 →
    ((regAt off).isResult = true ↔ (0x030 ≤ off ∧ off < 0x040) ∨ off = 0x05C ∨ off = 0x064 ∨ 0x080 ≤ off) := by
  decide +kernel

/-! ## Reads (R141) -/

theorem flagWord_reserved (b : Bool) : (flagWord b).extractLsb' 1 31 = 0#31 := by cases b <;> rfl

theorem getLsbD_flagWord (b : Bool) (k : Nat) : (flagWord b).getLsbD k = (decide (k = 0) && b) := by
  cases b <;> simp [flagWord]

/-- A flag shifted to bit `n` is that bit alone. -/
theorem getLsbD_flagWord_shift (b : Bool) {n : Nat} (hn : n < 32) (k : Nat) :
    (flagWord b <<< n).getLsbD k = (decide (k = n) && b) := by
  rw [BitVec.getLsbD_shiftLeft, getLsbD_flagWord]
  by_cases hk : k = n
  · simp [hk, hn]
  · have h : ¬k < n → k - n ≠ 0 := by omega
    by_cases hlt : k < n <;> simp [hk, hlt, h]

/-- An error code shifted to bit `n` starts there. -/
theorem getLsbD_code_shift (c : BitVec 4) {n : Nat} (hn : n ≤ 28) (k : Nat) :
    (c.setWidth 32 <<< n).getLsbD k = (decide (n ≤ k) && c.getLsbD (k - n)) := by
  rw [BitVec.getLsbD_shiftLeft, BitVec.getLsbD_setWidth]
  obtain hk | hk := Nat.lt_or_ge k n
  · simp [hk, Nat.not_le.2 hk]
  obtain h4 | h4 := Nat.lt_or_ge (k - n) 4
  · have h32 : k < 32 ∧ k - n < 32 := by omega
    simp [h32, hk]
  · simp [BitVec.getLsbD_of_ge _ _ h4]

section
variable (s : State)

/-- The layout of STATUS (R33, R141): ERRCODE from bit 8 on, and the five flags below bit 5. -/
theorem getLsbD_statusWord (k : Nat) :
    (statusWord s).getLsbD k = (decide (8 ≤ k) && s.errcode.getLsbD (k - 8) || decide (k = 4) && s.ovr
      || decide (k = 3) && s.rkValid || decide (k = 2) && s.err || decide (k = 1) && s.done
      || decide (k = 0) && s.busy) := by
  simp (disch := omega) only [statusWord, BitVec.getLsbD_or, getLsbD_code_shift, getLsbD_flagWord,
    getLsbD_flagWord_shift]

/-- The bits of STATUS from bit 5 on are those of ERRCODE. -/
theorem getLsbD_statusWord_high {k : Nat} (h : 5 ≤ k) :
    (statusWord s).getLsbD k = (decide (8 ≤ k) && s.errcode.getLsbD (k - 8)) := by
  have hflag : ∀ n < 5, decide (k = n) = false := fun n hn => decide_eq_false (by omega)
  simp (disch := omega) [getLsbD_statusWord, hflag]

theorem statusWord_reserved_low : (statusWord s).extractLsb' 5 3 = 0#3 := by
  apply BitVec.eq_of_getLsbD_eq
  intro k hk
  have h8 : ¬8 ≤ 5 + k := by omega
  simp [getLsbD_statusWord_high, h8]

theorem statusWord_errcode : (statusWord s).extractLsb' 8 4 = s.errcode := by
  apply BitVec.eq_of_getLsbD_eq
  intro k hk
  have h5 : 5 ≤ 8 + k := by omega
  simp [getLsbD_statusWord_high s h5, hk]

theorem statusWord_reserved_high : (statusWord s).extractLsb' 12 20 = 0#20 := by
  apply BitVec.eq_of_getLsbD_eq
  intro k hk
  have h5 : 5 ≤ 12 + k := by omega
  have h4 : 4 ≤ 12 + k - 8 := by omega
  simp [getLsbD_statusWord_high s h5, BitVec.getLsbD_of_ge _ _ h4]

end

/-- STATUS field by field. -/
theorem statusWord_fields (s : State) :
    (statusWord s).getLsbD 0 = s.busy ∧ (statusWord s).getLsbD 1 = s.done ∧ (statusWord s).getLsbD 2 = s.err
      ∧ (statusWord s).getLsbD 3 = s.rkValid ∧ (statusWord s).getLsbD 4 = s.ovr
      ∧ (statusWord s).extractLsb' 5 3 = 0#3 ∧ (statusWord s).extractLsb' 8 4 = s.errcode
      ∧ (statusWord s).extractLsb' 12 20 = 0#20 := by
  refine ⟨?_, ?_, ?_, ?_, ?_, statusWord_reserved_low s, statusWord_errcode s, statusWord_reserved_high s⟩
  all_goals
    rw [getLsbD_statusWord]
    simp

/-- Settles O41: at each offset `regAt` finds the register of R31, and the value is the one R141 gives it. -/
theorem registerReadMap : Obligations.RegisterReadMap := by
  intro s off rest hr h4 hlt ha
  let a : State := { s with agenda := rest }
  have hv {r : Reg} (h : regAt off = r) :
      regValue a (Config.draw32 s.draws) (regAt off) = regValue a (Config.draw32 s.draws) r := by rw [h]
  refine ⟨regValue a (Config.draw32 s.draws) (regAt off),
    if s.busy && (regAt off).isResult then s.draws + 1 else s.draws, step_regRead hr h4 hlt ha, ?_, ?_, ?_, ?_, ?_, ?_, ?_,
    ?_, ?_, ?_, ?_, ?_, ?_, ?_, ?_, ?_, ?_⟩
  · rintro rfl; rfl
  · rintro rfl; rfl
  · rintro rfl; exact statusWord_fields a
  · rintro rfl; exact ⟨getLsbD_flagWord s.ie 0, flagWord_reserved s.ie⟩
  · rintro ⟨hl, hu⟩
    obtain ⟨i, rfl⟩ := exists_index (n := 4) h4 (by decide) hl hu
    exact hv (regAt_key i)
  · rintro i rfl; exact hv (regAt_din i)
  · rintro i rfl; exact hv (regAt_dout i)
  · rintro i rfl; exact hv (regAt_ctr i)
  · rintro rfl; rfl
  · rintro rfl; rfl
  · rintro rfl; rfl
  · rintro rfl; rfl
  · rintro rfl; rfl
  · rintro rfl; rfl
  · rintro ⟨hl, hu⟩; exact hv (regAt_reserved off hu hl)
  · rintro i hi rfl; exact hv (regAt_rk ⟨i, hi⟩)
  · simp only [Bool.and_eq_true, isResult_regAt off hlt h4]

/-! ## Writes (R142) -/

section
variable (v : Word) (s : State)

theorem regWrite_key (i : Fin 4) : regWrite (0x010 + 4 * i.val) v s
    = operandWrite s { s with key := s.key.set i v, rkValid := false } := by
  rw [regWrite, regAt_key]

theorem regWrite_din (i : Fin 4) : regWrite (0x020 + 4 * i.val) v s
    = operandWrite s { s with din := s.din.set i v } := by
  rw [regWrite, regAt_din]

theorem regWrite_ctr (i : Fin 4) : regWrite (0x040 + 4 * i.val) v s
    = operandWrite s { s with ctr := s.ctr.set i v } := by
  rw [regWrite, regAt_ctr]

/-- ID, the result registers and the reserved offsets ignore a write. -/
theorem regWrite_of_readOnly {off : Nat} (h4 : off % 4 = 0) (hlt : off < 0x100)
    (h : off = 0x000 ∨ (0x030 ≤ off ∧ off < 0x040) ∨ off = 0x05C ∨ 0x064 ≤ off) : regWrite off v s = s := by
  obtain rfl | ⟨hl, hu⟩ | rfl | hl := h
  · rfl
  · obtain ⟨i, rfl⟩ := exists_index (n := 4) h4 (by decide) hl hu
    rw [regWrite, regAt_dout]
  · rfl
  · obtain rfl | hne := eq_or_ne off 0x064
    · rfl
    obtain hu | hge := lt_or_ge off 0x080
    · rw [regWrite, regAt_reserved off hu (by omega)]
    · obtain ⟨i, rfl⟩ := exists_index (n := 32) h4 (by decide) hge hlt
      rw [regWrite, regAt_rk]

end

/-- Settles O42: at each offset `regAt` finds the register of R31, and the write is the one R142 gives it. -/
theorem registerWriteMap : Obligations.RegisterWriteMap := by
  intro s off v rest hr h4 hlt ha a operand
  refine ⟨regWrite off v a, step_regWrite hr h4 hlt ha, ?_, ?_, ?_, ?_, ?_, ?_, ?_, ?_, ?_, ?_, ?_⟩
  · rintro rfl; rfl
  · rintro rfl; rfl
  · rintro rfl; rfl
  · rintro i rfl; exact regWrite_key v a i
  · rintro i rfl; exact regWrite_din v a i
  · rintro i rfl; exact regWrite_ctr v a i
  · rintro rfl; rfl
  · rintro rfl; rfl
  · rintro rfl; rfl
  · rintro rfl; rfl
  · exact regWrite_of_readOnly v a h4 hlt

end Sys2Proof.Machine
end

section
/-! # The operands while BUSY = 1 (O45)

A busy engine drops the host's operand writes, and neither an internal step nor the end of a command writes an operand:
only a reset does (R145, R150). -/

namespace Sys2Proof.Machine

open Sys2Proof

/-- `t` has the operand registers of `s`. -/
def OperandRegistersKept (s t : State) : Prop :=
  t.key = s.key ∧ t.din = s.din ∧ t.ctr = s.ctr ∧ t.src = s.src ∧ t.dst = s.dst ∧ t.len = s.len ∧ t.pin = s.pin

section
variable {s t : State}

theorem OperandRegistersKept.refl (s : State) : OperandRegistersKept s s := ⟨rfl, rfl, rfl, rfl, rfl, rfl, rfl⟩

theorem OperandsKept.registers (h : OperandsKept s t) : OperandRegistersKept s t := by
  obtain ⟨-, -, -, hkey, hdin, hctr, hsrc, hdst, hlen, hpin, -⟩ := h
  exact ⟨hkey, hdin, hctr, hsrc, hdst, hlen, hpin⟩

/-- While BUSY = 1 only CMD, STATUS and CTRL take a write (R145, R148). -/
theorem regWrite_of_busy (hb : s.busy = true) {off : Nat} {v : Word} (h4 : off % 4 = 0) (hlt : off < 0x100)
    (hcmd : off ≠ 0x004) (hstatus : off ≠ 0x008) (hctrl : off ≠ 0x00C) : regWrite off v s = s := by
  obtain ⟨icmd, istatus, ictrl⟩ := regAt_control off hlt h4
  obtain ⟨h, -⟩ | ⟨h, -⟩ | ⟨h, -⟩ | ⟨hn, -⟩ | ⟨hn, -⟩ | h := regWrite_cases off v s
  · exact absurd (icmd h) hcmd
  · exact absurd (istatus h) hstatus
  · exact absurd (ictrl h) hctrl
  · cases hn.symm.trans hb
  · cases hn.symm.trans hb
  · exact h

theorem bufRead_keeps_operands (a : Nat) (s : State) : OperandRegistersKept s (bufRead a s) := by
  unfold bufRead
  split
  all_goals exact .refl s

theorem engineStep_keeps_operands (s : State) : OperandRegistersKept s (engineStep s) := by
  obtain h | ⟨i, -, -, h⟩ := engineStep_cases s
  all_goals rw [h]
  · exact .refl s
  · simp [OperandRegistersKept]

/-- A register write to a busy engine keeps the operands or is a soft reset. -/
theorem regWrite_keeps_operands (hb : s.busy = true) (off : Nat) (v : Word) :
    HasResetValues (regWrite off v s) ∨ OperandRegistersKept s (regWrite off v s) := by
  obtain ⟨-, h⟩ | ⟨-, h⟩ | ⟨-, h⟩ | ⟨hn, -⟩ | ⟨hn, -⟩ | h := regWrite_cases off v s
  · rw [h, cmdWrite_of_busy hb]; exact .inr (.refl s)
  · rw [h]; exact .inr (.refl s)
  · rw [h]
    cases hv : v.getLsbD 1 with
    | true => rw [ctrlWrite_of_soft_reset hv]; exact .inl (hasResetValues_softReset s)
    | false => rw [ctrlWrite_of_no_reset hv]; exact .inr (.refl s)
  · cases hn.symm.trans hb
  · cases hn.symm.trans hb
  · rw [h]; exact .inr (.refl s)

theorem perform_keeps_operands (hb : s.busy = true) {e : Event} (h : perform e s = .next t) :
    HasResetValues t ∨ OperandRegistersKept s t := by
  cases e with
  | host op =>
    obtain ⟨-, ⟨off, -, -, -, rfl⟩ | ⟨off, v, -, -, -, rfl⟩ | ⟨a, -, -, rfl⟩ | ⟨a, b, -, -, -, -, rfl⟩⟩ :=
      hostStep_cases h
    · exact .inr (.refl s)
    · exact regWrite_keeps_operands hb off v
    · exact .inr (bufRead_keeps_operands a s)
    · exact .inr (.refl s)
  | engineStep => cases h; exact .inr (engineStep_keeps_operands s)
  | engineLast =>
    obtain ⟨-, rfl⟩ | ⟨i, -, -, hx⟩ := engineLast_cases h
    · exact .inr (.refl _)
    · exact .inr (exec_operandsKept hx).registers
  | resetAssert powerOn => cases h; exact .inl (hasResetValues_hardwareReset powerOn s)
  | resetRelease => cases h; exact .inr (.refl s)

end

/-- Settles O45: a busy engine takes a write at CMD, STATUS and CTRL only, and no event but a reset changes an operand. -/
theorem operandsAreProtectedWhileBusy : Obligations.OperandsAreProtectedWhileBusy := by
  intro s hb
  refine ⟨fun off v rest hr h4 ho ha => ?_, fun v rest hr => ⟨fun ha => ?_, fun ha => ?_⟩, fun t h => ?_⟩
  · have hlt : off < 0x100 := by omega
    rw [step_regWrite hr h4 hlt ha]
    exact congrArg Host.Outcome.next (regWrite_of_busy (s := { s with agenda := rest }) hb h4 hlt
      (by omega) (by omega) (by omega))
  · exact step_regWrite hr (by decide) (by decide) ha
  · exact step_regWrite hr (by decide) (by decide) ha
  · obtain ⟨-, rfl⟩ | ⟨e, -, he⟩ := step_cases h
    · exact .inr (OperandRegistersKept.refl _)
    · exact perform_keeps_operands (s := takeEvent s) hb he

end Sys2Proof.Machine
end

section
/-! # The soft reset (O2)

A soft reset is an abort, which writes a free byte at each destination address of a running buffer command that BUF has,
and then the reset values (R152). -/

namespace Sys2Proof.Machine

open Sys2Proof

section
variable {s : State} {i : Instr} {a : Nat}

/-- At the addresses BUF has, an abort covers the destination region. -/
theorem lt_destination_iff (hl : s.dst.toNat ≤ a) (ha : a < s.cfg.memBytes) :
    a < s.dst.toNat + destinationBytes i s ↔ a < s.dst.toNat + outMax i s := by
  simp only [destinationBytes]
  omega

/-- BUF after an abort: a fresh free byte, drawn by it, at each destination address that BUF has, and the other bytes as
they were. -/
theorem bufByte_abort (h : runningBuffer s = some i) (ha : a < s.cfg.memBytes) :
    (s.dst.toNat ≤ a ∧ a < s.dst.toNat + outMax i s →
      bufByte (abort s) a = Config.drawByte (s.draws + (a - s.dst.toNat))
        ∧ s.draws + (a - s.dst.toNat) < (abort s).draws)
    ∧ (¬(s.dst.toNat ≤ a ∧ a < s.dst.toNat + outMax i s) → bufByte (abort s) a = bufByte s a) := by
  have hbyte := bufByte_of_memWrite (s := s) (t := abort s) (by rw [abort_of_runningBuffer h]) (abort_launch s) a
  rw [drawBytes_length] at hbyte
  constructor
  · intro ⟨hl, hu⟩
    have hd := (lt_destination_iff hl ha).2 hu
    rw [hbyte, if_pos ⟨hl, hd⟩, drawBytes_getD _ _ _ (by omega), abort_of_runningBuffer h]
    exact ⟨rfl, by dsimp only; omega⟩
  · intro hn
    rw [hbyte, if_neg fun ⟨hl, hd⟩ => hn ⟨hl, (lt_destination_iff hl ha).1 hd⟩]

theorem runningBuffer_of_no_region (h : s.busy = false ∨ ∃ i, latched s = .ok i ∧ isBuffer i = false) :
    runningBuffer s = none := by
  obtain hb | ⟨i, hl, hi⟩ := h
  · exact runningBuffer_of_idle hb
  · exact runningBuffer_of_not_isBuffer hl hi

end

/-- Settles O2: the CTRL write is a soft reset, which keeps BUF as the abort leaves it. -/
theorem softResetAbortsTheRunningCommand : Obligations.SoftResetAbortsTheRunningCommand := by
  intro s v rest hr hv ha
  let u : State := { s with agenda := rest }
  have hstep : step s = .next (softReset u) := by
    rw [step_regWrite hr (by decide) (by decide) ha]
    exact congrArg Host.Outcome.next (ctrlWrite_of_soft_reset hv)
  exact ⟨softReset u, hstep, hasResetValues_softReset u, (hasResetValues_softReset u).irq_low, abort_agenda u,
    softReset_cfg u, fun i hb hl hi a hlt => bufByte_abort (s := u) (runningBuffer_of hb hl hi) hlt,
    fun hn => bufByte_softReset_of_no_buffer (runningBuffer_of_no_region (s := u) hn)⟩

end Sys2Proof.Machine
end

section
/-! # The S-layer and the diffusion functions (O8 to O12)

SBOX has an inverse, so it is a permutation, and τ, which acts on each byte of a word alone, is one of the words (R181,
R184, R189). CK is read byte by byte in the same way (R183). L and L' are XORs of rotations, which move bits and commute
with XOR (R185, R186). -/

namespace Sys2Proof.Machine

open Sys2Proof

/-! ## SBOX (R180, R181) -/

/-- The position of byte `y` in SBOX; the entries are compared as numbers, which the kernel does fast. -/
def sboxPosition (y : Byte) : Byte := BitVec.ofNat 8 (sboxRows.flatten.findIdx fun b => Nat.beq b.toNat y.toNat)

theorem sbox_sboxPosition : ∀ y : Byte, sbox (sboxPosition y) = y := by decide +kernel

theorem sbox_surjective : Function.Surjective sbox := fun y => ⟨sboxPosition y, sbox_sboxPosition y⟩

theorem sbox_injective : Function.Injective sbox := Finite.injective_iff_surjective.2 sbox_surjective

theorem sbox_fixed_iff : ∀ x : Byte, sbox x = x ↔ x = 0xAB#8 := by decide +kernel

/-- Settles O8: each byte has a position in SBOX, and a surjection of a finite type to itself is an injection. -/
theorem sboxIsAPermutation : Obligations.SboxIsAPermutation :=
  ⟨sbox_surjective, fun _ _ h => sbox_injective h, sbox_fixed_iff, rfl, rfl⟩

/-! ## The bytes of a word (R12) -/

/-- Byte `j` of a word, byte 0 the most significant. -/
theorem unbe32_getElem? (x : Word) {j : Nat} (hj : j < 4) : (unbe32 x)[j]? = some (x.extractLsb' (8 * (3 - j)) 8) := by
  interval_cases j <;> rfl

theorem unbe32_injective : Function.Injective unbe32 := by
  intro x y h
  simp only [unbe32, List.cons.injEq, and_true] at h
  obtain ⟨h3, h2, h1, h0⟩ := h
  rw [← be32_unbe32 x, ← be32_unbe32 y, h3, h2, h1, h0]

/-- `be32` as the shifts and ORs of R184, which put the bytes in the four disjoint ranges of bits. -/
theorem be32_eq_or (b0 b1 b2 b3 : Byte) :
    be32 b0 b1 b2 b3 = (b0.setWidth 32 <<< 24) ||| (b1.setWidth 32 <<< 16) ||| (b2.setWidth 32 <<< 8)
      ||| b3.setWidth 32 := by
  apply BitVec.eq_of_getLsbD_eq
  intro i hi
  simp only [be32_getLsbD, BitVec.getLsbD_or, BitVec.getLsbD_shiftLeft, BitVec.getLsbD_setWidth]
  split_ifs <;> grind

/-! ## CK (R183) -/

theorem unbe32_ck (i : Nat) : unbe32 (ck i) = (List.range 4).map (ckByte i) := unbe32_be32 _ _ _ _

theorem extractLsb'_ck (i : Nat) {j : Nat} (hj : j < 4) : (ck i).extractLsb' (8 * (3 - j)) 8 = ckByte i j := by
  have h := unbe32_getElem? (ck i) hj
  simpa [unbe32_ck, hj] using h.symm

/-- Settles O9: the bytes of the word `ck i` are those it is made of. -/
theorem ckFormulaGivesTheTable : Obligations.CkFormulaGivesTheTable := by
  refine ⟨fun i j _ hj => ?_, rfl⟩
  rw [extractLsb'_ck i hj, ckByte, BitVec.toNat_ofNat]

/-! ## τ (R184, R189) -/

theorem unbe32_tau (x : Word) : unbe32 (tau x) = (unbe32 x).map sbox := unbe32_be32 _ _ _ _

/-- Each byte of `tau x` is the substituted byte of `x` in the same position. -/
theorem extractLsb'_tau (x : Word) {j : Nat} (hj : j < 4) :
    (tau x).extractLsb' (8 * j) 8 = sbox (x.extractLsb' (8 * j) 8) := by
  have h := unbe32_getElem? (tau x) (j := 3 - j) (by omega)
  rw [unbe32_tau, List.getElem?_map, unbe32_getElem? x (by omega)] at h
  simpa [Nat.sub_sub_self (Nat.le_of_lt_succ hj)] using h.symm

theorem tau_injective : Function.Injective tau := fun x y h =>
  unbe32_injective (List.map_injective_iff.2 sbox_injective (by rw [← unbe32_tau, ← unbe32_tau, h]))

theorem tau_surjective : Function.Surjective tau := Finite.injective_iff_surjective.1 tau_injective

/-- Settles O10: a byte of `tau x` depends on `x` through its byte alone. -/
theorem tauSubstitutesBytesIndependently : Obligations.TauSubstitutesBytesIndependently := by
  refine ⟨fun x => be32_eq_or _ _ _ _, fun x y j hj h => ?_⟩
  rw [extractLsb'_tau x hj, extractLsb'_tau y hj, h]

/-! ## L and L' (R185, R186, R189) -/

/-- Bit `i` of `rotl32(x, n)` is bit `i - n` mod 32 of `x` (R11). -/
theorem getLsbD_rotateLeft_word (x : Word) {n i : Nat} (hn : n < 32) (hi : i < 32) :
    (x.rotateLeft n).getLsbD i = x.getLsbD ((i + (32 - n)) % 32) := by
  rw [BitVec.getLsbD_rotateLeft, Nat.mod_eq_of_lt hn]
  by_cases h : i < n
  · rw [show (i + (32 - n)) % 32 = 32 - n + i by omega]
    simp [h]
  · rw [show (i + (32 - n)) % 32 = i - n by omega]
    simp [h, hi]

theorem rotateLeft_xor (a b : Word) {n : Nat} (hn : n < 32) :
    (a ^^^ b).rotateLeft n = a.rotateLeft n ^^^ b.rotateLeft n := by
  apply BitVec.eq_of_getLsbD_eq
  intro i hi
  simp only [BitVec.getLsbD_xor, getLsbD_rotateLeft_word _ hn hi]

theorem diffL_xor (a b : Word) : diffL (a ^^^ b) = diffL a ^^^ diffL b := by
  simp (disch := decide) only [diffL, rotateLeft_xor]
  ac_rfl

theorem diffLp_xor (a b : Word) : diffLp (a ^^^ b) = diffLp a ^^^ diffLp b := by
  simp (disch := decide) only [diffLp, rotateLeft_xor]
  ac_rfl

/-- Settles O11: the bits of a rotation, XORed. -/
theorem diffusionBitFormulas : Obligations.DiffusionBitFormulas := by
  intro x i hi
  simp (disch := omega) only [diffL, diffLp, BitVec.getLsbD_xor, getLsbD_rotateLeft_word, and_self]

/-- Settles O12: rotations commute with XOR, and τ inherits one-to-one from SBOX byte by byte. -/
theorem diffusionIsLinearAndTauBijective : Obligations.DiffusionIsLinearAndTauBijective :=
  ⟨fun a b => ⟨diffL_xor a b, diffLp_xor a b⟩, rfl, rfl, rfl, rfl, fun _ _ h => tau_injective h, tau_surjective⟩

end Sys2Proof.Machine
end

section
/-! # The PRIM commands (O13 to O18)

The five commands differ in the function from PIN to POUT alone (R190 to R194), and T and T' are L and L' after τ
(R195). -/

namespace Sys2Proof.Machine

open Sys2Proof

section
variable {s t : State}

/-- A command accepted while idle is busy, without DONE and ERR (R147). -/
theorem cmdWrite_accepts {w : Word} {i : Instr} (hd : decode w = .ok i) (hb : s.busy = false) :
    (cmdWrite w s).busy = true ∧ (cmdWrite w s).done = false ∧ (cmdWrite w s).err = false := by
  rw [cmdWrite_of_legal hb hd]
  exact ⟨acceptCommand_busy i _, datapathStart_done i _, datapathStart_err i _⟩

/-- A PRIM command writes POUT, completes, and changes nothing else. -/
theorem primCommand_eq (f : Word → Word) (s : State) :
    primCommand f s = .next { s with pout := f s.pin, busy := false, done := true } := rfl

theorem primCommand_pout {f : Word → Word} (h : primCommand f s = .next t) : t.pout = f s.pin := by
  cases h
  rfl

/-- Two PRIM commands, the POUT of the first fed back into PIN, and the PRIM command of the composed function. -/
theorem primCommand_comp {f g : Word → Word} {u v : State} (hf : primCommand f s = .next t)
    (hg : primCommand g { t with pin := t.pout } = .next u) (hc : primCommand (fun x => g (f x)) s = .next v) :
    v.pout = u.pout := by
  rw [primCommand_pout hc, primCommand_pout hg, primCommand_pout hf]

end

/-- Settles O13: PRIM_S is the PRIM command of τ. -/
theorem primSAppliesTau : Obligations.PrimSAppliesTau :=
  ⟨decode_encode .primS, fun _ => cmdWrite_accepts (decode_encode .primS), primCommand_eq tau, rfl, rfl, rfl, rfl⟩

/-- Settles O14: PRIM_L is the PRIM command of L. -/
theorem primLAppliesL : Obligations.PrimLAppliesL :=
  ⟨decode_encode .primL, fun _ => cmdWrite_accepts (decode_encode .primL), primCommand_eq diffL, rfl, rfl, rfl, rfl⟩

/-- Settles O15: PRIM_LP is the PRIM command of L'. -/
theorem primLpAppliesLp : Obligations.PrimLpAppliesLp :=
  ⟨decode_encode .primLp, fun _ => cmdWrite_accepts (decode_encode .primLp), primCommand_eq diffLp, rfl, rfl, rfl,
    rfl⟩

/-- Settles O16: PRIM_T is the PRIM command of L after τ. -/
theorem primTAppliesT : Obligations.PrimTAppliesT :=
  ⟨decode_encode .primT, fun _ => cmdWrite_accepts (decode_encode .primT), primCommand_eq transT, rfl, rfl, rfl⟩

/-- Settles O17: PRIM_TP is the PRIM command of L' after τ. -/
theorem primTpAppliesTp : Obligations.PrimTpAppliesTp :=
  ⟨decode_encode .primTp, fun _ => cmdWrite_accepts (decode_encode .primTp), primCommand_eq transTp, rfl, rfl, rfl⟩

/-- Settles O18: the one command and the two in turn apply the same function to PIN. -/
theorem primTransformsAreCompositions : Obligations.PrimTransformsAreCompositions :=
  fun _ _ _ _ hs => ⟨primCommand_comp (f := tau) (g := diffL) hs, primCommand_comp (f := tau) (g := diffLp) hs⟩

end Sys2Proof.Machine
end

section
/-! # The datapath while a command runs (O51)

The work of the datapath is stated once for KEY_EXPAND and once for a command that runs blocks: its start establishes it
and every internal step keeps it (R223, R246). The invariant says that the latched command's work is under way. A host
operation on a busy engine keeps all that the work reads; the end of a command and a reset leave the engine idle. -/

namespace Sys2Proof.Machine

open Sys2Proof

/-- The datapath is in the key schedule of KEY, after RND rounds (R53, R223). -/
structure KeyWork (s : State) : Prop where
  fsel : s.fsel = true
  xw : s.xw = keyWindow s.key s.rnd.toNat

/-- The datapath is in the iteration of the current block of command `i`, after RND rounds (R52, R53, R55, R246). -/
structure BlockWork (i : Instr) (s : State) : Prop where
  fsel : s.fsel = false
  dir : s.dir = reverseOrder i
  bi : isBuffer i = true → s.bi < blockCount i s
  cw : i = .ctrXform → s.cw = counter0 s + BitVec.ofNat 128 s.bi
  xw : s.xw = window transT (subkeyMux s.rk (reverseOrder i)) (blockWords i (currentBlock i s) s) s.rnd.toNat

section
variable {i : Instr} {s t : State}

/-! ## The work under the engine's steps -/

/-- A round below 32 does not wrap RND (R51). -/
theorem datapathRound_rnd_toNat (h : s.rnd.toNat < 32) : (datapathRound s).rnd.toNat = s.rnd.toNat + 1 :=
  (BitVec.toNat_add _ _).trans (Nat.mod_eq_of_lt (Nat.lt_of_le_of_lt h (by decide)))

theorem keyWork_datapathStart (s : State) : KeyWork (datapathStart .keyExpand s) := ⟨rfl, rfl⟩

theorem KeyWork.round (h : KeyWork s) (hn : s.rnd.toNat < 32) : KeyWork (datapathRound s) where
  fsel := h.fsel
  xw := by rw [datapathRound_rnd_toNat hn, datapathRound_xw, h.xw, roundKey, h.fsel]; rfl

theorem datapathStep_keyExpand_of_lt (hn : s.rnd.toNat < 32) : datapathStep .keyExpand s = datapathRound s := if_pos hn

theorem KeyWork.datapathStep (h : KeyWork s) : KeyWork (datapathStep .keyExpand s) := by
  by_cases hn : s.rnd.toNat < 32
  · rw [datapathStep_keyExpand_of_lt hn]; exact h.round hn
  · rw [Machine.datapathStep, if_pos rfl, if_neg hn]; exact h

/-- The start of block `k`, which is one of the command's blocks. -/
theorem blockWork_loadBlock {k : Nat} (hk : k < blockCount i s) (h0 : isBuffer i = false → k = 0) :
    BlockWork i (loadBlock i k s) := by
  have so : SameOperands s (loadBlock i k s) := by constructor <;> rfl
  have hcur : currentBlock i (loadBlock i k s) = k := by
    cases hi : isBuffer i with
    | true => simp [currentBlock, hi]
    | false => simp [currentBlock, hi, h0 hi]
  exact
    { fsel := rfl
      dir := rfl
      bi := fun hi => by rw [so.blockCount_eq, loadBlock_bi, if_pos hi]; exact hk
      cw := by rintro rfl; rfl
      xw := by rw [hcur, so.blockWords_eq]; rfl }

theorem BlockWork.round (h : BlockWork i s) (hn : s.rnd.toNat < 32) : BlockWork i (datapathRound s) := by
  have so : SameOperands s (datapathRound s) := by constructor <;> rfl
  exact
    { fsel := h.fsel
      dir := h.dir
      bi := fun hi => by rw [so.blockCount_eq]; exact h.bi hi
      cw := h.cw
      xw := by
        rw [datapathRound_rnd_toNat hn, so.blockWords_eq, datapathRound_xw, h.xw, roundKey, h.fsel, h.dir]; rfl }

/-- KEY_EXPAND runs no blocks. -/
theorem ne_keyExpand_of_runsBlocks (hr : runsBlocks i s = true) : i ≠ .keyExpand := by
  rintro rfl; cases hr

theorem blockCount_pos_of_runsBlocks (hr : runsBlocks i s = true) : 0 < blockCount i s := by
  simp only [runsBlocks, Bool.and_eq_true, decide_eq_true_eq] at hr
  exact hr.2

theorem blockWork_datapathStart (hr : runsBlocks i s = true) : BlockWork i (datapathStart i s) := by
  rw [datapathStart, if_neg (ne_keyExpand_of_runsBlocks hr), if_pos hr]
  exact blockWork_loadBlock (blockCount_pos_of_runsBlocks hr) fun _ => rfl

/-- An internal step is a round, the start of the next block, or nothing. -/
theorem BlockWork.datapathStep (h : BlockWork i s) (hr : runsBlocks i s = true) : BlockWork i (datapathStep i s) := by
  rw [Machine.datapathStep, if_neg (ne_keyExpand_of_runsBlocks hr), if_pos hr]
  split
  next hn => exact h.round hn
  next =>
    split
    next hb =>
      simp only [Bool.and_eq_true, decide_eq_true_eq] at hb
      exact blockWork_loadBlock hb.2 fun hi => by cases hi.symm.trans hb.1
    next => exact h

/-- What the work of a command that runs blocks reads. -/
theorem BlockWork.congr (h : BlockWork i s) (hd : SameDatapath s t) (hk : t.rk = s.rk) (hc : counter0 t = counter0 s)
    (hn : blockCount i t = blockCount i s) (hw : ∀ k, blockWords i k t = blockWords i k s) : BlockWork i t where
  fsel := hd.fsel.trans h.fsel
  dir := hd.dir.trans h.dir
  bi hi := by rw [hd.bi, hn]; exact h.bi hi
  cw hi := by rw [hd.cw, hc, hd.bi]; exact h.cw hi
  xw := by rw [hd.xw, hk, hw, hd.rnd, currentBlock, hd.bi]; exact h.xw

/-! ## The invariant as the work of the latched command -/

theorem datapathInv_iff : DatapathInv s ↔ (s.busy = true → ∀ i, latched s = .ok i →
    (i = .keyExpand → KeyWork s) ∧ (runsBlocks i s = true → BlockWork i s)) := by
  refine forall_congr' fun _ => forall₂_congr fun i _ => and_congr ?_ ?_
  · exact imp_congr_right fun _ => ⟨fun ⟨hf, hx⟩ => ⟨hf, hx⟩, fun ⟨hf, hx⟩ => ⟨hf, hx⟩⟩
  · exact imp_congr_right fun _ =>
      ⟨fun ⟨hf, hd, hb, hc, hx⟩ => ⟨hf, hd, hb, hc, hx⟩, fun ⟨hf, hd, hb, hc, hx⟩ => ⟨hf, hd, hb, hc, hx⟩⟩

theorem datapathInv_of_latched (hl : latched s = .ok i) (hk : i = .keyExpand → KeyWork s)
    (hb : runsBlocks i s = true → BlockWork i s) : DatapathInv s :=
  datapathInv_iff.2 fun _ j hj => by cases hl.symm.trans hj; exact ⟨hk, hb⟩

/-- An accepted command starts its work (R147, R223, R246). -/
theorem datapathInv_acceptCommand (i : Instr) (s : State) : DatapathInv (acceptCommand i s) := by
  have hr : ∀ u, runsBlocks i (datapathStart i u) = runsBlocks i u := fun u =>
    SameOperands.runsBlocks_eq (by constructor <;> simp) i
  refine datapathInv_of_latched (acceptCommand_latched i s) ?_ fun h => ?_
  · rintro rfl; exact keyWork_datapathStart _
  · rw [acceptCommand, hr] at h; exact blockWork_datapathStart h

theorem DatapathInv.engineStep (h : DatapathInv s) : DatapathInv (engineStep s) := by
  obtain he | ⟨i, hb, hl, he⟩ := engineStep_cases s
  all_goals rw [he]
  · exact h
  obtain ⟨hkey, hblock⟩ := datapathInv_iff.1 h hb i hl
  refine datapathInv_of_latched ((latched_congr (datapathStep_opc i s)).trans hl) ?_ fun hr => ?_
  · rintro rfl; exact (hkey rfl).datapathStep
  · rw [(sameOperands_datapathStep i s).runsBlocks_eq] at hr; exact (hblock hr).datapathStep hr

/-! ## The invariant under the host's operations -/

/-- `s` with the host's side of `d`: the record in STATUS, IE, the draws, the reset input, the agenda, the responses. -/
def withHostSideOf (s d : State) : State :=
  { s with
    done := d.done, err := d.err, ovr := d.ovr, errcode := d.errcode, ie := d.ie, draws := d.draws
    rstAsserted := d.rstAsserted, agenda := d.agenda, responses := d.responses }

/-- No work reads the host's side. -/
theorem DatapathInv.withHostSideOf (h : DatapathInv s) (d : State) : DatapathInv (withHostSideOf s d) := by
  have so : SameOperands s (Machine.withHostSideOf s d) := by constructor <;> rfl
  have hd : SameDatapath s (Machine.withHostSideOf s d) := by constructor <;> rfl
  refine datapathInv_iff.2 fun hb i hl => ?_
  obtain ⟨hkey, hblock⟩ := datapathInv_iff.1 h hb i hl
  refine ⟨fun hi => ⟨(hkey hi).fsel, (hkey hi).xw⟩, fun hr => ?_⟩
  rw [so.runsBlocks_eq] at hr
  exact (hblock hr).congr hd so.rk so.counter0_eq (so.blockCount_eq i) (so.blockWords_eq i)

/-- Of BUF the work reads the source region of the running command alone. -/
theorem DatapathInv.withBuf {m : Memory} (h : DatapathInv s)
    (hm : s.busy = true → ∀ i, latched s = .ok i → AgreesOnSource i m s) : DatapathInv (withBuf m s) := by
  have hd : SameDatapath s (Machine.withBuf m s) := by constructor <;> rfl
  refine datapathInv_iff.2 fun hb i hl => ?_
  obtain ⟨hkey, hblock⟩ := datapathInv_iff.1 h hb i hl
  refine ⟨fun hi => ⟨(hkey hi).fsel, (hkey hi).xw⟩, fun hr => ?_⟩
  rw [runsBlocks_withBuf] at hr
  exact (hblock hr).congr hd rfl rfl blockCount_withBuf (hm hb i hl).blockWords_eq

/-- A BUF write outside the source region leaves it as it is (R90). -/
theorem agreesOnSource_set {a : Nat} (ha : inSource i s a = false) (b : Byte) : AgreesOnSource i (s.buf.set a b) s := by
  refine agreesOnSource_of_bufByte fun x hi hl hu => (bufByte_bufWrite s a x b).trans (if_neg ?_)
  rintro rfl
  have hin : inSource i s x = true := by rw [inSource, hi, Bool.true_and, inRange_iff]; exact ⟨hl, hu⟩
  cases ha.symm.trans hin

theorem bufWrite_eq_withBuf (a : Nat) (b : Byte) (s : State) : bufWrite a b s = withBuf (s.buf.set a b) s := rfl

theorem DatapathInv.bufWrite {a : Nat} (h : DatapathInv s) (ha : busySource s a = false) (b : Byte) :
    DatapathInv (bufWrite a b s) := by
  rw [bufWrite_eq_withBuf]
  exact h.withBuf fun hb _ hl => agreesOnSource_set ((busySource_of_latched hb hl a).symm.trans ha) b

/-- A BUF read changes the host's side only. -/
theorem bufRead_frame (a : Nat) (s : State) : bufRead a s = withHostSideOf s (bufRead a s) := by
  unfold bufRead
  split <;> rfl

theorem DatapathInv.bufRead (h : DatapathInv s) (a : Nat) : DatapathInv (bufRead a s) := by
  rw [bufRead_frame]; exact h.withHostSideOf _

theorem DatapathInv.cmdWrite (h : DatapathInv s) (w : Word) : DatapathInv (cmdWrite w s) := by
  obtain ⟨-, hw⟩ | ⟨hb, e, -, hw⟩ | ⟨-, i, -, hw⟩ := cmdWrite_cases w s
  all_goals rw [hw]
  · exact h.withHostSideOf { s with ovr := true }
  · exact datapathInv_of_idle hb
  · exact datapathInv_acceptCommand i _

theorem DatapathInv.ctrlWrite (h : DatapathInv s) (v : Word) : DatapathInv (ctrlWrite v s) := by
  cases hv : v.getLsbD 1 with
  | true => rw [ctrlWrite_of_soft_reset hv]; exact datapathInv_of_idle (hasResetValues_softReset s).busy
  | false => rw [ctrlWrite_of_no_reset hv]; exact h.withHostSideOf { s with ie := v.getLsbD 0 }

/-- The operand writes that take effect find the engine idle (R145). -/
theorem DatapathInv.regWrite (h : DatapathInv s) (off : Nat) (v : Word) : DatapathInv (regWrite off v s) := by
  obtain ⟨-, hw⟩ | ⟨-, hw⟩ | ⟨-, hw⟩ | ⟨hb, k, hw⟩ | ⟨hb, d, c, a, b, l, p, hw⟩ | hw := regWrite_cases off v s
  all_goals rw [hw]
  · exact h.cmdWrite v
  · exact h.withHostSideOf (statusWrite v s)
  · exact h.ctrlWrite v
  · exact datapathInv_of_idle hb
  · exact datapathInv_of_idle hb
  · exact h

theorem DatapathInv.hostStep (h : DatapathInv s) {op : HostOp} (hs : hostStep op s = .next t) : DatapathInv t := by
  obtain ⟨-, ⟨off, -, -, -, rfl⟩ | ⟨off, v, -, -, -, rfl⟩ | ⟨a, -, -, rfl⟩ | ⟨a, b, -, -, ha, -, rfl⟩⟩ :=
    hostStep_cases hs
  · exact h.withHostSideOf (regRead off s)
  · exact h.regWrite off v
  · exact h.bufRead a
  · exact h.bufWrite ha b

/-! ## The invariant under a step -/

theorem DatapathInv.engineLast (h : DatapathInv s) (hs : engineLast s = .next t) : DatapathInv t := by
  obtain ⟨-, rfl⟩ | ⟨i, -, -, he⟩ := engineLast_cases hs
  · exact h
  · exact datapathInv_of_idle (exec_busy he)

theorem DatapathInv.perform (h : DatapathInv s) {e : Event} (hs : perform e s = .next t) : DatapathInv t := by
  cases e with
  | host op => exact h.hostStep hs
  | engineStep => cases hs; exact h.engineStep
  | engineLast => exact h.engineLast hs
  | resetAssert powerOn => cases hs; exact datapathInv_of_idle (hasResetValues_hardwareReset powerOn s).busy
  | resetRelease => cases hs; exact h.withHostSideOf { s with rstAsserted := false }

end

/-- Settles O51: each event keeps the work of the running command or leaves the engine idle. -/
theorem stepKeepsTheDatapathInvariant : Obligations.StepKeepsTheDatapathInvariant := by
  intro s t h hs
  obtain ⟨-, rfl⟩ | ⟨e, -, he⟩ := step_cases hs
  · exact h
  · exact (h.withHostSideOf (takeEvent s)).perform he

end Sys2Proof.Machine
end

section
/-! # The key schedule (O19 to O21)

The window after `n` rounds holds `rk[n..n+3]` of the recurrence (R221); KEY_EXPAND leaves the fourth word of each next
window in RK, and the datapath's rounds go through the windows one by one (R222, R223). -/

namespace Sys2Proof.Machine

open Sys2Proof

section
variable {key : Quad} {rk : Nat → Word} (h0 : rk 0 = key.w0 ^^^ 0xA3B1BAC6#32) (h1 : rk 1 = key.w1 ^^^ 0x56AA3350#32)
  (h2 : rk 2 = key.w2 ^^^ 0x677D9197#32) (h3 : rk 3 = key.w3 ^^^ 0xB27022DC#32)
  (hrk : ∀ i, i < 32 → rk (i + 4) = rk i ^^^ diffLp (tau (rk (i + 1) ^^^ rk (i + 2) ^^^ rk (i + 3) ^^^ ck i)))
include h0 h1 h2 h3 hrk

theorem keyWindow_of_recurrence {n : Nat} (hn : n ≤ 32) :
    keyWindow key n = ⟨rk n, rk (n + 1), rk (n + 2), rk (n + 3)⟩ := by
  have hseed : keySeed key = ⟨rk 0, rk 1, rk 2, rk 3⟩ := by rw [h0, h1, h2, h3]; rfl
  rw [keyWindow, hseed]
  exact window_of_recurrence transTp ck rk n fun i hi => hrk i (by omega)

theorem rkAt_keySchedule_of_recurrence {i : Nat} (hi : i < 32) : rkAt (keySchedule key) i = rk (i + 4) := by
  rw [rkAt_keySchedule key i hi, keyWindow_of_recurrence h0 h1 h2 h3 hrk hi]

end

/-- Settles O19: subkey `i` is the last word of the window after `i + 1` rounds. -/
theorem keyScheduleFollowsTheRecurrence : Obligations.KeyScheduleFollowsTheRecurrence :=
  fun _ _ h0 h1 h2 h3 hrk _ => rkAt_keySchedule_of_recurrence h0 h1 h2 h3 hrk

/-! ## KEY_EXPAND (R222) -/

/-- KEY_EXPAND writes RK and RK_VALID, ends the datapath's work and completes. -/
theorem exec_keyExpand (s : State) : exec .keyExpand s = .next
    { s with
      rk := keySchedule s.key, rkValid := true, busy := false, done := true
      xw := keyWindow s.key 32, rnd := 32, fsel := false } := rfl

theorem exec_keyExpand_rk {s t : State} (h : exec .keyExpand s = .next t) : t.rk = keySchedule s.key := by
  cases h; rfl

theorem exec_keyExpand_key {s t : State} (h : exec .keyExpand s = .next t) : t.key = s.key := by
  cases h; rfl

/-- A KEY write while idle (R36, R46). -/
theorem regWrite_key_of_idle {s : State} (hb : s.busy = false) (i : Fin 4) (v : Word) :
    regWrite (0x010 + 4 * i.val) v s = { s with key := s.key.set i v, rkValid := false } := by
  rw [regWrite_key, operandWrite, hb]; rfl

/-- Settles O20: RK depends on KEY alone, which KEY_EXPAND keeps and a KEY write changes without RK. -/
theorem keyExpandFillsTheSubkeyFile : Obligations.KeyExpandFillsTheSubkeyFile := by
  refine ⟨decode_encode .keyExpand, fun s => cmdWrite_accepts (decode_encode .keyExpand),
    fun s => ⟨_, exec_keyExpand s, rfl⟩, fun s t u ht hu => ?_, fun s i v hb => ?_, ?_, ?_⟩
  · rw [exec_keyExpand_rk hu, exec_keyExpand_key ht, exec_keyExpand_rk ht]
  · rw [regWrite_key_of_idle hb]; exact ⟨rfl, rfl⟩
  · decide +kernel
  · decide +kernel

/-! ## The datapath's rounds (R223) -/

/-- After `r` rounds of KEY_EXPAND's datapath RND = `r`, and the work is that of the same KEY. -/
theorem keyWork_rounds (s : State) {r : Nat} (hr : r ≤ 32) :
    let d := (datapathStep .keyExpand)^[r] (datapathStart .keyExpand s)
    KeyWork d ∧ d.rnd.toNat = r ∧ d.key = s.key := by
  induction r with
  | zero => exact ⟨keyWork_datapathStart s, rfl, rfl⟩
  | succ r ih =>
    obtain ⟨hw, hn, hk⟩ := ih (by omega)
    have hlt := hn.trans_lt hr
    rw [Function.iterate_succ_apply', datapathStep_keyExpand_of_lt hlt]
    exact ⟨hw.round hlt, (datapathRound_rnd_toNat hlt).trans (congrArg (· + 1) hn), hk⟩

/-- Settles O21, by induction on the number of rounds: each takes the window of the recurrence on by one. -/
theorem keyDatapathRefinesTheSchedule : Obligations.KeyDatapathRefinesTheSchedule := by
  intro s rk h0 h1 h2 h3 hrk r hr d
  obtain ⟨hw, hn, hk⟩ := keyWork_rounds s hr
  refine ⟨hn, ?_, hw.fsel, fun t ht i hi => ?_⟩
  · rw [hw.xw, hn, hk]
    exact keyWindow_of_recurrence h0 h1 h2 h3 hrk hr
  · rw [exec_keyExpand_rk ht]
    exact rkAt_keySchedule_of_recurrence h0 h1 h2 h3 hrk (by omega)

end Sys2Proof.Machine
end

section
/-! # The block transform (O22 to O26)

The window after `n` rounds holds `X[n..n+3]` of the iteration (R241); the rounds in the reverse subkey order undo it
(R245). ENC_BLOCK and DEC_BLOCK are one command up to the subkey order (R243, R244), and their datapath goes through the
windows one by one (R246 to R248). -/

namespace Sys2Proof.Machine

open Sys2Proof

/-! ## The iteration (R241, R242) -/

/-- Any sequence with the recurrence of R242 gives the block transform by its last four words. -/
theorem sm4Words_of_recurrence {sk X : Nat → Word}
    (hX : ∀ i, i < 32 → X (i + 4) = X i ^^^ diffL (tau (X (i + 1) ^^^ X (i + 2) ^^^ X (i + 3) ^^^ sk i))) :
    sm4Words sk ⟨X 0, X 1, X 2, X 3⟩ = ⟨X 35, X 34, X 33, X 32⟩ := by
  rw [sm4Words, window_of_recurrence transT sk X 32 hX]; rfl

/-- The words of a block, one by one (R12). -/
theorem wordsOf_eq {b : List Byte} {X : Nat → Word} (h : ∀ j, j < 4 →
    X j = (b.getD (4 * j) 0) ++ (b.getD (4 * j + 1) 0) ++ (b.getD (4 * j + 2) 0) ++ (b.getD (4 * j + 3) 0)) :
    wordsOf b = ⟨X 0, X 1, X 2, X 3⟩ := by
  rw [h 0 (by decide), h 1 (by decide), h 2 (by decide), h 3 (by decide)]; rfl

/-- Settles O22: the window after 32 rounds holds the last four words of the iteration. -/
theorem blockTransformIsTheRoundIteration : Obligations.BlockTransformIsTheRoundIteration := by
  refine ⟨fun b sk X _ hb hX => ?_, fun rk b => ⟨rfl, rfl⟩⟩
  rw [sm4Block, wordsOf_eq hb, sm4Words_of_recurrence hX]; rfl

/-! ## The inverse (R245) -/

/-- The block transform with the round keys in reverse order undoes it. -/
theorem sm4Words_reverse {sk sk' : Nat → Word} (h : ∀ i, i < 32 → sk' i = sk (31 - i)) (x : Quad) :
    sm4Words sk' (sm4Words sk x) = x := by
  have hrev : window transT sk' (sm4Words sk x) 32 = outputStage x :=
    (window_congr transT sk' _ _ 32 h).trans (window_reverse transT sk x 32 32 le_rfl)
  rw [sm4Words, hrev]; rfl

theorem subkeyMux_not (rk : RkFile) (dir : Bool) {n : Nat} (hn : n < 32) :
    subkeyMux rk (!dir) n = subkeyMux rk dir (31 - n) := by
  cases dir with
  | false => rfl
  | true =>
    have hback : 31 - (31 - n) = n := by omega
    simp [hback]

/-- The two subkey orders undo each other. -/
theorem sm4Words_subkeyMux_not (rk : RkFile) (dir : Bool) (x : Quad) :
    sm4Words (subkeyMux rk (!dir)) (sm4Words (subkeyMux rk dir) x) = x :=
  sm4Words_reverse (fun _ hn => subkeyMux_not rk dir hn) x

theorem sm4Block_subkeyMux_not (rk : RkFile) (dir : Bool) {m : List Byte} (hm : m.length = 16) :
    sm4Block (subkeyMux rk (!dir)) (sm4Block (subkeyMux rk dir) m) = m := by
  rw [sm4Block, sm4Block, wordsOf_bytesOf, sm4Words_subkeyMux_not, bytesOf_wordsOf m hm]

theorem eRev_eFwd (rk : RkFile) {m : List Byte} (hm : m.length = 16) : eRev rk (eFwd rk m) = m :=
  sm4Block_subkeyMux_not rk false hm

theorem eFwd_eRev (rk : RkFile) {m : List Byte} (hm : m.length = 16) : eFwd rk (eRev rk m) = m :=
  sm4Block_subkeyMux_not rk true hm

/-! ## ENC_BLOCK and DEC_BLOCK (R243, R244) -/

section
variable {i : Instr} {s : State} (hi : i = .encBlock ∨ i = .decBlock)
include hi

theorem runsBlocks_block (hk : s.rkValid = true) : runsBlocks i s = true := by
  rcases hi with rfl | rfl <;> simp [runsBlocks, needsSubkeys, earlyError, keyError, errorIf, blockCount, hk]

/-- With RK_VALID = 1 a block command writes DOUT, ends the datapath's work and completes. -/
theorem exec_block (hk : s.rkValid = true) : exec i s = .next
    { s with
      dout := sm4Words (subkeyMux s.rk (reverseOrder i)) s.din, busy := false, done := true
      xw := window transT (subkeyMux s.rk (reverseOrder i)) s.din 32, rnd := 32, dir := reverseOrder i
      fsel := false } := by
  have hr := runsBlocks_block hi hk
  rw [exec_of_no_earlyError (earlyError_of_runsBlocks hr), commandEnd, datapathFinish,
    if_neg (ne_keyExpand_of_runsBlocks hr), if_pos hr]
  rcases hi with rfl | rfl <;> rfl

theorem exec_block_of_no_subkeys (hk : s.rkValid = false) : exec i s = .next (failedWith 2 s) := by
  rcases hi with rfl | rfl <;> exact exec_of_no_subkeys hk rfl

/-- The result and the frame of a block command. -/
theorem exec_block_frame (hk : s.rkValid = true) : ∃ t, exec i s = .next t
    ∧ bytesOf t.dout = sm4Block (subkeyMux s.rk (reverseOrder i)) (bytesOf s.din)
    ∧ t = { s with
      dout := t.dout, busy := false, done := true, xw := t.xw, rnd := t.rnd, dir := t.dir, fsel := t.fsel } :=
  ⟨_, exec_block hi hk, by rw [sm4Block, wordsOf_bytesOf], rfl⟩

/-- A block command, then the one with the other subkey order on its DOUT, leaves the first DIN in DOUT. -/
theorem exec_block_inverse {j : Instr} (hj : j = .encBlock ∨ j = .decBlock) (hij : reverseOrder j = !reverseOrder i)
    (hk : s.rkValid = true) :
    ∃ t u, exec i s = .next t ∧ exec j { t with din := t.dout } = .next u ∧ u.dout = s.din :=
  ⟨_, _, exec_block hi hk, exec_block hj hk, by rw [hij]; exact sm4Words_subkeyMux_not s.rk (reverseOrder i) s.din⟩

end

/-- Settles O23: the rounds undone, on blocks and through DOUT and DIN. -/
theorem blockTransformsAreInverse : Obligations.BlockTransformsAreInverse :=
  ⟨fun rk _ hm => ⟨eRev_eFwd rk hm, eFwd_eRev rk hm⟩, fun _ hk =>
    ⟨exec_block_inverse (.inl rfl) (.inr rfl) rfl hk, exec_block_inverse (.inr rfl) (.inl rfl) rfl hk⟩⟩

/-- The key of the examples of R243 and R244, which R243 takes as the block too. -/
def exampleKey : Quad := ⟨0x01234567, 0x89ABCDEF, 0xFEDCBA98, 0x76543210⟩

/-- The example of R243. -/
theorem eFwd_exampleKey : eFwd (keySchedule exampleKey) (bytesOf exampleKey)
    = bytesOf ⟨0x681EDF34, 0xD206965E, 0x86B3E94F, 0x536E4246⟩ := by
  decide +kernel

/-- The second example of R244 is the first of R243 undone. -/
theorem eRev_exampleKey : eRev (keySchedule exampleKey) (bytesOf ⟨0x681EDF34, 0xD206965E, 0x86B3E94F, 0x536E4246⟩)
    = bytesOf exampleKey := by
  rw [← eFwd_exampleKey]; exact eRev_eFwd _ rfl

/-- Settles O24: ENC_BLOCK is the block command with the subkeys in forward order. -/
theorem encBlockEncryptsDin : Obligations.EncBlockEncryptsDin :=
  ⟨decode_encode .encBlock, fun _ => cmdWrite_accepts (decode_encode .encBlock), fun _ => exec_block_frame (.inl rfl),
    fun _ => exec_block_of_no_subkeys (.inl rfl), eFwd_exampleKey⟩

/-- Settles O25: DEC_BLOCK is the block command with the subkeys in reverse order. -/
theorem decBlockDecryptsDin : Obligations.DecBlockDecryptsDin := by
  refine ⟨decode_encode .decBlock, fun _ => cmdWrite_accepts (decode_encode .decBlock),
    fun _ => exec_block_frame (.inr rfl), fun _ => exec_block_of_no_subkeys (.inr rfl), ?_, eRev_exampleKey⟩
  decide +kernel

/-! ## The datapath's rounds (R246 to R248) -/

theorem SameOperands.trans {s t u : State} (h : SameOperands s t) (h' : SameOperands t u) : SameOperands s u := by
  constructor
  case memBytes => exact h'.memBytes.trans h.memBytes
  case ctrOvfPolicy => exact h'.ctrOvfPolicy.trans h.ctrOvfPolicy
  case rkValid => exact h'.rkValid.trans h.rkValid
  case din => exact h'.din.trans h.din
  case ctr => exact h'.ctr.trans h.ctr
  case src => exact h'.src.trans h.src
  case dst => exact h'.dst.trans h.dst
  case len => exact h'.len.trans h.len
  case rk => exact h'.rk.trans h.rk
  case buf => exact h'.buf.trans h.buf
  case launch => exact h'.launch.trans h.launch

theorem sameOperands_datapathStart (i : Instr) (s : State) : SameOperands s (datapathStart i s) := by
  constructor <;> simp

theorem datapathStep_of_runsBlocks_of_lt {i : Instr} {s : State} (hr : runsBlocks i s = true) (hn : s.rnd.toNat < 32) :
    datapathStep i s = datapathRound s := by
  rw [datapathStep, if_neg (ne_keyExpand_of_runsBlocks hr), if_pos hr, if_pos hn]

/-- After `r` rounds of a command that runs blocks RND = `r`, and the work is that of the same operands. -/
theorem blockWork_rounds {i : Instr} {s : State} (hr : runsBlocks i s = true) {r : Nat} (hle : r ≤ 32) :
    let d := (datapathStep i)^[r] (datapathStart i s)
    BlockWork i d ∧ d.rnd.toNat = r ∧ SameOperands s d := by
  induction r with
  | zero =>
    refine ⟨blockWork_datapathStart hr, ?_, sameOperands_datapathStart i s⟩
    rw [Function.iterate_zero_apply, datapathStart, if_neg (ne_keyExpand_of_runsBlocks hr), if_pos hr]; rfl
  | succ r ih =>
    obtain ⟨hw, hn, so⟩ := ih (by omega)
    have hlt := hn.trans_lt hle
    have hround := datapathStep_of_runsBlocks_of_lt ((so.runsBlocks_eq i).trans hr) hlt
    have so' := so.trans (sameOperands_datapathStep i _)
    rw [Function.iterate_succ_apply']
    rw [hround] at so' ⊢
    exact ⟨hw.round hlt, (datapathRound_rnd_toNat hlt).trans (congrArg (· + 1) hn), so'⟩

section
variable {i : Instr} (hi : i = .encBlock ∨ i = .decBlock)
include hi

/-- A block command has the one block DIN. -/
theorem blockWords_block (k : Nat) (s : State) : blockWords i k s = s.din := by
  rcases hi with rfl | rfl <;> rfl

/-- DIR is 1 for DEC_BLOCK and 0 for ENC_BLOCK (R52). -/
theorem reverseOrder_block : reverseOrder i = decide (i = .decBlock) := by
  rcases hi with rfl | rfl <;> rfl

/-- The window after `r` rounds of a block command's datapath. -/
theorem block_rounds_xw {s : State} (hk : s.rkValid = true) {r : Nat} (hr : r ≤ 32) :
    ((datapathStep i)^[r] (datapathStart i s)).xw = window transT (subkeyMux s.rk (reverseOrder i)) s.din r := by
  obtain ⟨hw, hn, so⟩ := blockWork_rounds (runsBlocks_block hi hk) hr
  rw [hw.xw, hn, so.rk, blockWords_block hi, so.din]

end

/-- The subkey MUX in the order of R247. -/
theorem subkeyMux_eq (rk : RkFile) (p : Prop) [Decidable p] (n : Nat) :
    subkeyMux rk (decide p) n = rkAt rk (if p then 31 - n else n) := by
  by_cases hp : p <;> simp [hp]

/-- Settles O26, by induction on the number of rounds: each takes the window of the iteration on by one. -/
theorem blockDatapathRefinesTheTransform : Obligations.BlockDatapathRefinesTheTransform := by
  intro s i X hi hk h0 h1 h2 h3 hX
  have hdin : s.din = ⟨X 0, X 1, X 2, X 3⟩ := by rw [h0, h1, h2, h3]
  have hX' : ∀ r, r < 32 → X (r + 4) = X r ^^^ transT (X (r + 1) ^^^ X (r + 2) ^^^ X (r + 3)
      ^^^ subkeyMux s.rk (reverseOrder i) r) := fun r hr => by
    rw [reverseOrder_block hi, subkeyMux_eq]; exact hX r hr
  refine ⟨fun r hr => ?_, fun t ht => ?_⟩
  · obtain ⟨hw, hn, -⟩ := blockWork_rounds (runsBlocks_block hi hk) hr
    refine ⟨hn, ?_, hw.fsel, hw.dir.trans (reverseOrder_block hi)⟩
    rw [block_rounds_xw hi hk hr, hdin]
    exact window_of_recurrence transT _ X r fun j hj => hX' j (by omega)
  · rw [exec_block hi hk] at ht
    cases ht
    refine ⟨?_, ?_⟩
    · rw [block_rounds_xw hi hk le_rfl]; rfl
    · rw [hdin]; exact sm4Words_of_recurrence hX'

end Sys2Proof.Machine
end

section
/-! # ECB_ENC and ECB_DEC (O27, O28, O30)

A buffer command checks its regions before it writes (R86, R87), and then its destination holds what it writes, block by
block (R271, R274). E_rev undoes E_fwd on every block, and the last byte of a padded buffer is the length of its padding,
so that the one command's output gives the other back the source (R270, R275). -/

namespace Sys2Proof.Machine

open Sys2Proof

/-! ## The region checks (R86, R87) -/

/-- A region of command `i` reaches past the end of BUF (R86). -/
def RegionOutside (i : Instr) (s : State) : Prop :=
  s.cfg.memBytes < s.src.toNat + s.len.toNat ∨ s.cfg.memBytes < s.dst.toNat + outMax i s

/-- The regions of command `i` share a byte and do not start together (R87). -/
def RegionsOverlap (i : Instr) (s : State) : Prop :=
  0 < s.len.toNat ∧ 0 < outMax i s ∧ s.src.toNat ≠ s.dst.toNat
    ∧ s.src.toNat < s.dst.toNat + outMax i s ∧ s.dst.toNat < s.src.toNat + s.len.toNat

section
variable {i : Instr} {s : State}

theorem outOfRange_iff :
    outOfRange s.cfg.memBytes s.src.toNat s.len.toNat s.dst.toNat (outMax i s) = true ↔ RegionOutside i s := by
  simp [outOfRange, RegionOutside]

theorem overlap_iff :
    overlap s.src.toNat s.len.toNat s.dst.toNat (outMax i s) = true ↔ RegionsOverlap i s := by
  simp [overlap, RegionsOverlap, and_assoc]

theorem regionError_of_outside (h : RegionOutside i s) : regionError i s = some .range := by
  rw [regionError, outOfRange_iff.2 h]; rfl

theorem regionError_of_overlap (h : ¬RegionOutside i s) (ho : RegionsOverlap i s) :
    regionError i s = some .overlap := by
  rw [regionError, Bool.eq_false_iff.2 (mt outOfRange_iff.1 h), overlap_iff.2 ho]; rfl

theorem regionError_eq_none (h : ¬RegionOutside i s) (ho : ¬RegionsOverlap i s) : regionError i s = none := by
  rw [regionError, Bool.eq_false_iff.2 (mt outOfRange_iff.1 h), Bool.eq_false_iff.2 (mt overlap_iff.1 ho)]; rfl

theorem earlyError_ecbEnc_of_subkeys (hk : s.rkValid = true) : earlyError .ecbEnc s = regionError .ecbEnc s := by
  rw [earlyError, keyError, hk]; rfl

theorem lenError_of_bad (h : s.len.toNat = 0 ∨ s.len.toNat % 16 ≠ 0) : lenError s = some .len :=
  errorIf_eq_some.2 ⟨by simpa using h, rfl⟩

theorem lenError_eq_none (h : ¬(s.len.toNat = 0 ∨ s.len.toNat % 16 ≠ 0)) : lenError s = none :=
  errorIf_eq_none.2 (by simpa using h)

theorem earlyError_ecbDec_of_subkeys (hk : s.rkValid = true) :
    earlyError .ecbDec s = (lenError s).or (regionError .ecbDec s) := by
  rw [earlyError, keyError, hk]; rfl

end

/-! ## The end of a buffer command -/

section
variable {i : Instr} {s : State}

/-- A part of the destination region at the end of a command. -/
theorem memRead_commandEnd (h : earlyError i s = none) {k n : Nat} (hn : k + n ≤ outMax i s) :
    memRead (commandEnd i s) (s.dst.toNat + k) n = ((bytesWritten i s).drop k).take n :=
  memRead_segment_of_memWrite (s := s) (t := commandEnd i s) rfl (datapathFinish_launch i s) k n
    (by rwa [bytesWritten_length h])

theorem memRead_commandEnd_take (h : earlyError i s = none) {n : Nat} (hn : n ≤ outMax i s) :
    memRead (commandEnd i s) s.dst.toNat n = (bytesWritten i s).take n :=
  memRead_commandEnd h (k := 0) (by rwa [Nat.zero_add])

theorem bufByte_commandEnd_outside (h : earlyError i s = none) {a : Nat}
    (ha : a < s.dst.toNat ∨ s.dst.toNat + outMax i s ≤ a) : bufByte (commandEnd i s) a = bufByte s a := by
  rw [bufByte_commandEnd h, if_neg (by omega)]

/-- Only CTR_XFORM has a working counter (R55). -/
theorem datapathFinish_cw (hi : i ≠ .ctrXform) : (datapathFinish i s).cw = s.cw := by
  unfold datapathFinish
  repeat' split
  · rfl
  · exact if_neg hi
  · rfl

/-- What an ECB command that passes its early checks may change. -/
theorem commandEnd_ecb_frame (hi : i = .ecbEnc ∨ i = .ecbDec) :
    let t := commandEnd i s
    t = { s with
      buf := t.buf, outlen := t.outlen, err := t.err, errcode := t.errcode, busy := false, done := true
      xw := t.xw, rnd := t.rnd, dir := t.dir, fsel := t.fsel, bi := t.bi } := by
  have hcw : (datapathFinish i s).cw = s.cw := datapathFinish_cw (by rcases hi with rfl | rfl <;> decide)
  dsimp only
  rw [commandEnd, datapathFinish_frame, withDatapathOf, hcw]
  rcases hi with rfl | rfl <;> rfl

end

/-! ## ECB_ENC (R270, R271) -/

section
variable {s : State}

/-- The padded source in the words of R270. -/
theorem pad_sourceBytes (s : State) : pad (sourceBytes s) = memRead s s.src.toNat s.len.toNat
    ++ List.replicate (16 - s.len.toNat % 16) (BitVec.ofNat 8 (16 - s.len.toNat % 16)) := by
  rw [pad, sourceBytes_length]; rfl

/-- Block `k` of ECB_ENC's destination. -/
theorem memRead_commandEnd_ecbEnc (h : earlyError .ecbEnc s = none) {k : Nat} (hk : k < outMax .ecbEnc s / 16) :
    memRead (commandEnd .ecbEnc s) (s.dst.toNat + 16 * k) 16
      = eFwd s.rk (((pad (sourceBytes s)).drop (16 * k)).take 16) := by
  rw [memRead_commandEnd h (by omega)]
  exact mapBlocks_block (eFwd_length s.rk) _ k _ hk

theorem memBytes_le_of_wellFormed {c : Config} (hc : c.wellFormed = true) : c.memBytes ≤ 2 ^ 31 := by
  simp only [Config.wellFormed, Bool.and_eq_true, decide_eq_true_eq] at hc
  obtain ⟨⟨-, hmem⟩, -⟩ := hc
  exact hmem

/-- OUTLEN holds the padded length, since BUF does and MEM_BYTES is at most 2^31 (R8). -/
theorem outlen_commandEnd_ecbEnc (hc : s.cfg.wellFormed = true) (h : earlyError .ecbEnc s = none) :
    (commandEnd .ecbEnc s).outlen.toNat = outMax .ecbEnc s := by
  have hmem := memBytes_le_of_wellFormed hc
  have hfits := outMax_fits h
  exact BitVec.toNat_ofNat _ _ |>.trans (Nat.mod_eq_of_lt (by omega))

end

/-- The second example of R271: a block of padding under the key of the example. -/
theorem eFwd_exampleKey_padding : eFwd (keySchedule exampleKey) (List.replicate 16 0x10)
    = bytesOf ⟨0x002A8A4E, 0xFA863CCA, 0xD024AC03, 0x00BB40D2⟩ := by
  decide +kernel

/-- Settles O27: the checks of R342 in their order, and the end of ECB_ENC. -/
theorem ecbEncEncryptsThePaddedSource : Obligations.EcbEncEncryptsThePaddedSource := by
  refine ⟨decode_encode .ecbEnc, fun _ => cmdWrite_accepts (decode_encode .ecbEnc),
    fun _ hk => exec_of_no_subkeys hk rfl, fun s hk => ?_, eFwd_exampleKey, eFwd_exampleKey_padding⟩
  intro n p padded outside overlaps
  have he := earlyError_ecbEnc_of_subkeys hk
  have hov : overlaps ↔ RegionsOverlap .ecbEnc s :=
    and_congr_right fun _ => (and_iff_right (Nat.add_pos_right n (padLen_spec n).1)).symm
  refine ⟨fun hout => exec_of_earlyError (c := .range) (he.trans (regionError_of_outside hout)),
    fun hin ho => exec_of_earlyError (c := .overlap) (he.trans (regionError_of_overlap hin (hov.1 ho))),
    fun hc hin ho => ?_⟩
  have hn : earlyError .ecbEnc s = none := he.trans (regionError_eq_none hin (mt hov.2 ho))
  refine ⟨commandEnd .ecbEnc s, exec_of_no_earlyError hn, fun k hk => ?_,
    fun a ha => bufByte_commandEnd_outside hn ha, outlen_commandEnd_ecbEnc hc hn, commandEnd_ecb_frame (.inl rfl)⟩
  exact (memRead_commandEnd_ecbEnc hn hk).trans (by rw [pad_sourceBytes])

/-! ## ECB_DEC (R272 to R274) -/

section
variable {s : State}

theorem unpadFails_ecbDec : unpadFails .ecbDec s = decide (s.len.toNat < unpadValue s) := rfl

/-- Block `k` of ECB_DEC's destination. -/
theorem memRead_commandEnd_ecbDec (h : earlyError .ecbDec s = none) {k : Nat} (hk : k < s.len.toNat / 16) :
    memRead (commandEnd .ecbDec s) (s.dst.toNat + 16 * k) 16 = eRev s.rk (memRead s (s.src.toNat + 16 * k) 16) := by
  have hle : 16 * k + 16 ≤ s.len.toNat := by omega
  rw [memRead_commandEnd h hle, ← memRead_segment s s.src.toNat s.len.toNat _ _ hle]
  exact mapBlocks_block (eRev_length s.rk) _ k _ hk

/-- The last byte of ECB_DEC's destination is the value the unpadding reads. -/
theorem last_byte_commandEnd_ecbDec (h : earlyError .ecbDec s = none) :
    (bufByte (commandEnd .ecbDec s) (s.dst.toNat + s.len.toNat - 1)).toNat = unpadValue s := by
  have hpos : s.len.toNat ≠ 0 := (earlyError_ecbDec_eq_none.1 h).2.1.1
  have hlast : s.dst.toNat + s.len.toNat - 1 - s.dst.toNat = s.len.toNat - 1 := by omega
  rw [bufByte_commandEnd h, if_pos (by simp only [outMax]; omega), hlast]; rfl

theorem outlen_commandEnd_ecbDec : (commandEnd .ecbDec s).outlen.toNat = s.len.toNat - unpadValue s :=
  BitVec.toNat_ofNat _ _ |>.trans (Nat.mod_eq_of_lt (by omega))

/-- In-range padding leaves the error record as it was. -/
theorem commandEnd_ecbDec_record (hv : unpadValue s ≤ s.len.toNat) :
    (commandEnd .ecbDec s).err = s.err ∧ (commandEnd .ecbDec s).errcode = s.errcode := by
  simp [commandEnd, unpadFails_ecbDec, hv]

/-- A last byte above LEN is ERR_UNPAD, with OUTLEN = 0 (R274). -/
theorem commandEnd_ecbDec_unpad (hv : s.len.toNat < unpadValue s) : (commandEnd .ecbDec s).outlen = 0
    ∧ (commandEnd .ecbDec s).err = true ∧ (commandEnd .ecbDec s).errcode = 7 := by
  refine ⟨BitVec.eq_of_toNat_eq ?_, ?_, ?_⟩
  · rw [outlen_commandEnd_ecbDec]; exact Nat.sub_eq_zero_of_le hv.le
  all_goals simp [commandEnd, unpadFails_ecbDec, hv]

end

/-- The first example of R274 is the second of R271 undone. -/
theorem eRev_exampleKey_padding : eRev (keySchedule exampleKey)
    (bytesOf ⟨0x002A8A4E, 0xFA863CCA, 0xD024AC03, 0x00BB40D2⟩) = List.replicate 16 0x10 := by
  rw [← eFwd_exampleKey_padding]; exact eRev_eFwd _ rfl

/-- Settles O28: the checks of R342 in their order, and the two ends of ECB_DEC. -/
theorem ecbDecDecryptsAndUnpads : Obligations.EcbDecDecryptsAndUnpads := by
  refine ⟨decode_encode .ecbDec, fun _ => cmdWrite_accepts (decode_encode .ecbDec),
    fun _ hk => exec_of_no_subkeys hk rfl, fun s hk => ?_, eRev_exampleKey_padding, eRev_exampleKey⟩
  intro n badLen outside overlaps
  have he := earlyError_ecbDec_of_subkeys hk
  have hlen (hb : ¬badLen) : earlyError .ecbDec s = regionError .ecbDec s := by rw [he, lenError_eq_none hb]; rfl
  have hov (hb : ¬badLen) : overlaps ↔ RegionsOverlap .ecbDec s :=
    have hpos : 0 < n := Nat.pos_of_ne_zero (not_or.1 hb).1
    ((and_iff_right hpos).trans (and_iff_right hpos)).symm
  refine ⟨fun hb => exec_of_earlyError (c := .len) (by rw [he, lenError_of_bad hb]; rfl),
    fun hb hout => exec_of_earlyError (c := .range) ((hlen hb).trans (regionError_of_outside hout)),
    fun hb hin ho => exec_of_earlyError (c := .overlap) ((hlen hb).trans (regionError_of_overlap hin ((hov hb).1 ho))),
    fun hb hin ho => ?_⟩
  have hn : earlyError .ecbDec s = none := (hlen hb).trans (regionError_eq_none hin (mt (hov hb).2 ho))
  refine ⟨commandEnd .ecbDec s, exec_of_no_earlyError hn, fun k hk => memRead_commandEnd_ecbDec hn hk,
    fun a ha => bufByte_commandEnd_outside hn ha, ?_, commandEnd_ecb_frame (.inr rfl)⟩
  dsimp only
  rw [last_byte_commandEnd_ecbDec hn]
  exact ⟨fun hv => ⟨outlen_commandEnd_ecbDec, commandEnd_ecbDec_record hv⟩, commandEnd_ecbDec_unpad⟩

/-! ## The round trip (R275) -/

/-- Blocks through `f`, then through a function that undoes it on blocks, are the first blocks. -/
theorem mapBlocks_inverse {f g : List Byte → List Byte} (hf : ∀ b, (f b).length = 16)
    (hg : ∀ b, b.length = 16 → g (f b) = b) (n : Nat) (b : List Byte) (h : b.length = 16 * n) :
    mapBlocks g n (mapBlocks f n b) = b := by
  induction n generalizing b with
  | zero => exact (List.eq_nil_of_length_eq_zero h).symm
  | succ n ih =>
    have hhead : (b.take 16).length = 16 := by rw [List.length_take]; omega
    have htail : (b.drop 16).length = 16 * n := by rw [List.length_drop]; omega
    rw [mapBlocks, mapBlocks, List.take_left' (hf _), List.drop_left' (hf _), hg _ hhead, ih _ htail,
      List.take_append_drop]

/-- The last byte of a padded buffer is the length of its padding (R270). -/
theorem pad_last (b : List Byte) : ((pad b).getD (b.length + padLen b.length - 1) 0).toNat = padLen b.length := by
  have hp := padLen_spec b.length
  rw [pad, List.getD_append_right _ _ _ _ (by omega), List.getD_replicate _ (by omega), BitVec.toNat_ofNat]
  omega

section
variable {s r : State}

/-- ECB_ENC's output as the source of the next command. -/
theorem sourceBytes_of_commandEnd_ecbEnc (h : earlyError .ecbEnc s = none) (hb : r.buf = (commandEnd .ecbEnc s).buf)
    (hl : r.launch = (commandEnd .ecbEnc s).launch) (hs : r.src = s.dst) (hn : r.len.toNat = outMax .ecbEnc s) :
    sourceBytes r = ecbEncBytes s := by
  calc sourceBytes r
      = memRead (commandEnd .ecbEnc s) s.dst.toNat (outMax .ecbEnc s) := by
        rw [sourceBytes, hs, hn]; exact memRead_congr _ _ fun a _ _ => bufByte_congr hb hl a
    _ = (ecbEncBytes s).take (outMax .ecbEnc s) := memRead_commandEnd_take h le_rfl
    _ = ecbEncBytes s := List.take_of_length_le (ecbEncBytes_length s).le

/-- ECB_DEC of what ECB_ENC wrote, with the same subkeys, decrypts the padded source. -/
theorem ecbDecBytes_of_ecbEncBytes (hk : r.rk = s.rk) (hn : r.len.toNat = outMax .ecbEnc s)
    (hs : sourceBytes r = ecbEncBytes s) : ecbDecBytes r = pad (sourceBytes s) := by
  have hp := padLen_spec s.len.toNat
  rw [ecbDecBytes, hs, hk, hn]
  refine mapBlocks_inverse (eFwd_length s.rk) (fun b => eRev_eFwd s.rk) _ _ ?_
  rw [pad_length, sourceBytes_length, outMax]; omega

end

/-- Settles O30: ECB_DEC's destination is the padded source, whose last byte is the length of the padding. -/
theorem ecbRoundTrip : Obligations.EcbRoundTrip := by
  intro s t d hc hs ht r hr
  rw [exec_of_no_earlyError hs] at ht
  cases ht
  have hlen : r.len.toNat = s.len.toNat + padLen s.len.toNat := outlen_commandEnd_ecbEnc hc hs
  have hsource : sourceBytes r = ecbEncBytes s :=
    sourceBytes_of_commandEnd_ecbEnc hs rfl rfl (datapathFinish_dst .ecbEnc s) hlen
  have hbytes : ecbDecBytes r = pad (sourceBytes s) := ecbDecBytes_of_ecbEncBytes rfl hlen hsource
  have hv : unpadValue r = padLen s.len.toNat := by
    rw [unpadValue, hbytes, hlen, ← sourceBytes_length s]; exact pad_last _
  have hle : s.len.toNat ≤ r.len.toNat := by omega
  refine ⟨commandEnd .ecbDec r, exec_of_no_earlyError hr, ?_, BitVec.eq_of_toNat_eq ?_, ?_⟩
  · exact (commandEnd_ecbDec_record (hv.trans_le (by omega))).1
  · rw [outlen_commandEnd_ecbDec, hv]; omega
  · calc memRead (commandEnd .ecbDec r) d.toNat s.len.toNat
        = (ecbDecBytes r).take s.len.toNat := memRead_commandEnd_take hr hle
      _ = sourceBytes s := by rw [hbytes]; exact List.take_left' (sourceBytes_length s)

end Sys2Proof.Machine
end

section
/-! # CTR_XFORM (O29, O31)

A CTR_XFORM that passes its checks leaves in its destination the source XORed with the keystream, byte by byte (R301).
The keystream depends on CTR and RK alone, so that the same XOR a second time gives the source back (R304). -/

namespace Sys2Proof.Machine

open Sys2Proof

/-! ## The checks (R301, R303) -/

/-- The counter of the last block exceeds `2^128 - 1` (R303). -/
def CounterOverflows (s : State) : Prop :=
  0 < s.len.toNat ∧ 2 ^ 128 - 1 < (counter0 s).toNat + blocksOf s.len.toNat - 1

section
variable {s : State}

theorem blocksOf_pos_iff {n : Nat} : 0 < blocksOf n ↔ 0 < n := by
  unfold blocksOf; omega

theorem ctrError_of_overflow (h : CounterOverflows s) (hp : s.cfg.ctrOvfPolicy = .fault) :
    ctrError s = some .ctrOvf := by
  obtain ⟨hlen, hlast⟩ := h
  exact errorIf_eq_some.2 ⟨by simpa [hp, blocksOf_pos_iff, hlen] using Nat.succ_le_of_lt hlast, rfl⟩

theorem ctrError_eq_none (h : CounterOverflows s → s.cfg.ctrOvfPolicy = .wrap) : ctrError s = none := by
  refine errorIf_eq_none.2 (Bool.eq_false_iff.2 fun he => ?_)
  simp only [Bool.and_eq_true, decide_eq_true_eq, beq_iff_eq, blocksOf_pos_iff] at he
  obtain ⟨⟨hlen, hlast⟩, hp⟩ := he
  cases hp.symm.trans (h ⟨hlen, hlast⟩)

theorem earlyError_ctrXform_of_subkeys (hk : s.rkValid = true) :
    earlyError .ctrXform s = (regionError .ctrXform s).or (ctrError s) := by
  rw [earlyError, keyError, hk]; rfl

end

/-! ## The end of CTR_XFORM (R300 to R302) -/

section
variable {s : State}

/-- Byte `k` of what CTR_XFORM writes. -/
theorem ctrBytes_getD {k : Nat} (hk : k < s.len.toNat) : (ctrBytes s).getD k 0
    = bufByte s (s.src.toNat + k) ^^^ (keystream s (k / 16)).getD (k % 16) 0 := by
  have hlen := sourceBytes_length s
  have hsource : (sourceBytes s).getD k 0 = bufByte s (s.src.toNat + k) := by
    rw [List.getD_eq_getElem?_getD, sourceBytes, memRead_getElem? _ _ _ _ hk, Option.getD_some]
  rw [List.getD_eq_getElem?_getD, ctrBytes, xorBlocks_getElem? (keystream_length s) _ _ _ _
    (by unfold blocksOf; omega) (by omega), hsource, Nat.zero_add, Option.getD_some]

/-- The keystream in the words of R300: the counter is a number mod 2^128. -/
theorem keystream_eq (i : Nat) :
    keystream s i = eFwd s.rk (unbe128 (BitVec.ofNat 128 ((counter0 s).toNat + i))) := by
  rw [keystream, BitVec.ofNat_add, BitVec.ofNat_toNat, BitVec.setWidth_eq]

theorem bufByte_commandEnd_ctrXform (h : earlyError .ctrXform s = none) {k : Nat} (hk : k < s.len.toNat) :
    bufByte (commandEnd .ctrXform s) (s.dst.toNat + k) = bufByte s (s.src.toNat + k)
      ^^^ (eFwd s.rk (unbe128 (BitVec.ofNat 128 ((counter0 s).toNat + k / 16)))).getD (k % 16) 0 := by
  rw [bufByte_commandEnd h, if_pos ⟨Nat.le_add_right _ _, Nat.add_lt_add_left hk _⟩, Nat.add_sub_cancel_left,
    ← keystream_eq]
  exact ctrBytes_getD hk

/-- What a CTR_XFORM that passes its early checks may change. -/
theorem commandEnd_ctrXform_frame :
    let t := commandEnd .ctrXform s
    t = { s with
      buf := t.buf, outlen := s.len, busy := false, done := true
      xw := t.xw, rnd := t.rnd, dir := t.dir, fsel := t.fsel, bi := t.bi, cw := t.cw } := by
  dsimp only
  rw [commandEnd, datapathFinish_frame]; rfl

end

/-- The example of R301: the keystream block of the counter 0. -/
theorem eFwd_exampleKey_counter_zero : eFwd (keySchedule exampleKey) (unbe128 0)
    = bytesOf ⟨0x2677F46B, 0x09C122CC, 0x97553310, 0x5BD4A22A⟩ := by
  decide +kernel

/-- Settles O29: the checks of R342 in their order, and the end of CTR_XFORM. -/
theorem ctrXformXorsTheKeystream : Obligations.CtrXformXorsTheKeystream := by
  refine ⟨decode_encode .ctrXform, fun _ => cmdWrite_accepts (decode_encode .ctrXform),
    fun _ hk => exec_of_no_subkeys hk rfl, fun s hk => ?_, eFwd_exampleKey_counter_zero⟩
  intro n c0 outside overlaps overflows
  have he := earlyError_ctrXform_of_subkeys hk
  have hc : (counter0 s).toNat = c0 := valueOf_toNat s.ctr
  have hout : outside ↔ RegionOutside .ctrXform s := Iff.rfl
  have hov : overlaps ↔ RegionsOverlap .ctrXform s := and_congr_right fun hpos => (and_iff_right hpos).symm
  have hovf : overflows ↔ CounterOverflows s := by rw [CounterOverflows, hc]; rfl
  have hregions (hin : ¬outside) (ho : ¬overlaps) : earlyError .ctrXform s = ctrError s := by
    rw [he, regionError_eq_none (mt hout.2 hin) (mt hov.2 ho)]; rfl
  refine ⟨fun h => exec_of_earlyError (c := .range) (by rw [he, regionError_of_outside (hout.1 h)]; rfl),
    fun hin ho => exec_of_earlyError (c := .overlap) (by
      rw [he, regionError_of_overlap (mt hout.2 hin) (hov.1 ho)]; rfl),
    fun hin ho hf hp =>
      exec_of_earlyError (c := .ctrOvf) ((hregions hin ho).trans (ctrError_of_overflow (hovf.1 hf) hp)),
    fun hin ho hw => ?_⟩
  have hn : earlyError .ctrXform s = none := (hregions hin ho).trans (ctrError_eq_none fun hf => hw (hovf.2 hf))
  exact ⟨commandEnd .ctrXform s, exec_of_no_earlyError hn,
    fun k hk => hc ▸ bufByte_commandEnd_ctrXform hn hk, fun a ha => bufByte_commandEnd_outside hn ha,
    commandEnd_ctrXform_frame⟩

/-! ## The self-inverse (R304) -/

/-- The XOR with a keystream, a second time, gives the buffer back. -/
theorem xorBlocks_xorBlocks {ks : Nat → List Byte} (hk : ∀ i, (ks i).length = 16) (n i : Nat) (b : List Byte)
    (hb : b.length ≤ 16 * n) : xorBlocks ks i n (xorBlocks ks i n b) = b := by
  have hlen := xorBlocks_length hk n i b hb
  have hlen' := xorBlocks_length hk n i (xorBlocks ks i n b) (hlen.trans_le hb)
  refine List.ext_getElem (hlen'.trans hlen) fun k _ hkb => Option.some.inj ?_
  rw [← List.getElem?_eq_getElem, xorBlocks_getElem? hk _ _ _ _ (hlen.trans_le hb) (by rwa [hlen]),
    List.getD_eq_getElem?_getD, xorBlocks_getElem? hk _ _ _ _ hb hkb, Option.getD_some, BitVec.xor_assoc,
    BitVec.xor_self, BitVec.xor_zero, List.getD_eq_getElem _ _ hkb]

section
variable {s r : State}

/-- A command's output as the source of the next. -/
theorem sourceBytes_of_commandEnd {i : Instr} (h : earlyError i s = none) (hb : r.buf = (commandEnd i s).buf)
    (hl : r.launch = (commandEnd i s).launch) (hs : r.src = s.dst) (hn : r.len.toNat = outMax i s) :
    sourceBytes r = bytesWritten i s := by
  calc sourceBytes r
      = memRead (commandEnd i s) s.dst.toNat (outMax i s) := by
        rw [sourceBytes, hs, hn]; exact memRead_congr _ _ fun a _ _ => bufByte_congr hb hl a
    _ = (bytesWritten i s).take (outMax i s) := memRead_commandEnd_take h le_rfl
    _ = bytesWritten i s := List.take_of_length_le (bytesWritten_length h).le

/-- The keystream depends on CTR and RK alone (R300). -/
theorem keystream_congr (hc : r.ctr = s.ctr) (hk : r.rk = s.rk) : keystream r = keystream s := by
  funext i; rw [keystream, keystream, counter0, counter0, hc, hk]

/-- CTR_XFORM of what CTR_XFORM wrote, with the same subkeys and counter, writes the source. -/
theorem ctrBytes_of_ctrBytes (hks : keystream r = keystream s) (hn : r.len = s.len)
    (hs : sourceBytes r = ctrBytes s) : ctrBytes r = sourceBytes s := by
  rw [ctrBytes, hks, hn, hs, ctrBytes]
  refine xorBlocks_xorBlocks (keystream_length s) _ _ _ ?_
  rw [sourceBytes_length, blocksOf]; omega

end

/-- Settles O31: the second command's source is what the first wrote, and its keystream is the same (R302). -/
theorem ctrXformIsSelfInverse : Obligations.CtrXformIsSelfInverse := by
  intro s t d hs ht r hr
  rw [exec_of_no_earlyError hs] at ht
  cases ht
  have hlen : r.len = s.len := datapathFinish_len .ctrXform s
  have hks : keystream r = keystream s := keystream_congr (datapathFinish_ctr .ctrXform s) rfl
  have hsource : sourceBytes r = ctrBytes s :=
    sourceBytes_of_commandEnd hs rfl rfl (datapathFinish_dst .ctrXform s) (congrArg BitVec.toNat hlen)
  refine ⟨commandEnd .ctrXform r, exec_of_no_earlyError hr, rfl, ?_⟩
  calc memRead (commandEnd .ctrXform r) d.toNat s.len.toNat
      = (ctrBytes r).take s.len.toNat := memRead_commandEnd_take hr (congrArg BitVec.toNat hlen).ge
    _ = (sourceBytes s).take s.len.toNat := by rw [ctrBytes_of_ctrBytes hks hlen hsource]
    _ = sourceBytes s := List.take_of_length_le (sourceBytes_length s).le

end Sys2Proof.Machine
end

section
/-! # Errors (O33, O34, O35, O49)

Each error has the commands that may raise it (R341) and a cause in the state (R340). A command reports the first error,
in the order of R342, that it may raise and that has its cause (`reportedError_eq_find?`). Every error but ERR_UNPAD is
found before anything is written (R344). -/

namespace Sys2Proof.Machine

open Sys2Proof

/-! ## What a command reports -/

/-- The error command `i` reports: its early error, else ERR_UNPAD where the unpadding fails. -/
def reportedError (i : Instr) (s : State) : Option ErrorCode :=
  (earlyError i s).or (errorIf (unpadFails i s) .unpad)

/-- The commands that may raise an error (R341); ERR_OPCODE is a CMD write's. -/
def mayRaise (i : Instr) : ErrorCode → Bool
  | .opcode => false
  | .nokey => needsSubkeys i
  | .len => i == .ecbDec
  | .range => isBuffer i
  | .overlap => isBuffer i
  | .ctrOvf => i == .ctrXform
  | .unpad => i == .ecbDec

/-- The last byte of the last decrypted block (R272). -/
def lastByte (s : State) : Nat :=
  ((eRev s.rk (memRead s (s.src.toNat + s.len.toNat - 16) 16)).getD 15 0).toNat

/-- The cause of an error, for a command that may raise it (R340). -/
def hasCause (i : Instr) (s : State) : ErrorCode → Bool
  | .opcode => false
  | .nokey => !s.rkValid
  | .len => s.len.toNat == 0 || s.len.toNat % 16 != 0
  | .range => outOfRange s.cfg.memBytes s.src.toNat s.len.toNat s.dst.toNat (outMax i s)
  | .overlap => overlap s.src.toNat s.len.toNat s.dst.toNat (outMax i s)
  | .ctrOvf => 0 < blocksOf s.len.toNat && 2 ^ 128 ≤ (counter0 s).toNat + blocksOf s.len.toNat - 1
      && s.cfg.ctrOvfPolicy == .fault
  | .unpad => decide (s.len.toNat < lastByte s)

/-- Error `c` applies to command `i`. -/
def errorApplies (i : Instr) (s : State) (c : ErrorCode) : Bool := mayRaise i c && hasCause i s c

/-- The priority of R342, which is the order of the codes. -/
def errorOrder : List ErrorCode := [.nokey, .len, .range, .overlap, .ctrOvf, .unpad]

section
variable {i : Instr} {s t : State}

/-- ERR and ERRCODE after a command: of what it reports, or as before (R343). -/
theorem exec_record (h : exec i s = .next t) :
    t.err = (s.err || (reportedError i s).isSome)
    ∧ t.errcode = (reportedError i s).elim s.errcode ErrorCode.code := by
  cases he : earlyError i s with
  | some c =>
    rw [exec_of_earlyError he] at h; cases h
    simp [reportedError, he]
  | none =>
    rw [exec_of_no_earlyError he] at h; cases h
    cases hu : unpadFails i s with
    | true => simp [reportedError, he, hu, errorIf, commandEnd, ErrorCode.code]
    | false => simp [reportedError, he, hu, errorIf, commandEnd]

/-- The last byte ECB_DEC decrypts is in the last of its blocks. -/
theorem unpadValue_eq_lastByte (h0 : s.len.toNat ≠ 0) (h16 : s.len.toNat % 16 = 0) : unpadValue s = lastByte s := by
  obtain ⟨k, hk⟩ : ∃ k, s.len.toNat = 16 * (k + 1) := ⟨s.len.toNat / 16 - 1, by omega⟩
  have hblock : ((ecbDecBytes s).drop (16 * k)).take 16
      = eRev s.rk (memRead s (s.src.toNat + s.len.toNat - 16) 16) := by
    have haddr : s.src.toNat + s.len.toNat - 16 = s.src.toNat + 16 * k := by omega
    rw [haddr, ← memRead_segment s s.src.toNat s.len.toNat _ _ (by omega)]
    exact mapBlocks_block (eRev_length s.rk) _ k _ (by omega)
  have hlast : s.len.toNat - 1 = 16 * k + 15 := by omega
  rw [unpadValue, lastByte, ← hblock, hlast]
  simp [List.getElem?_drop]

/-- A search is a chain of checks. -/
theorem find?_cons_eq_or (p : ErrorCode → Bool) (c : ErrorCode) (l : List ErrorCode) :
    (c :: l).find? p = (errorIf (p c) c).or (l.find? p) := by
  cases h : p c with
  | true => simp [errorIf, h]
  | false => simp [errorIf, h]

/-- The unpadding of ECB_DEC is reached with whole blocks only. -/
theorem unpadFails_of_lenError (h : lenError s = none) : unpadFails .ecbDec s = errorApplies .ecbDec s .unpad := by
  obtain ⟨h0, h16⟩ : s.len.toNat ≠ 0 ∧ s.len.toNat % 16 = 0 := by simpa [lenError] using h
  rw [unpadFails, unpadValue_eq_lastByte h0 h16]; rfl

/-- A command reports the first error that applies to it (R342). -/
theorem reportedError_eq_find? (i : Instr) (s : State) :
    reportedError i s = errorOrder.find? (errorApplies i s) := by
  simp only [errorOrder, find?_cons_eq_or, List.find?_nil, Option.or_none]
  cases i with
  | ecbEnc | ctrXform => simp only [reportedError, earlyError, regionError, Option.or_assoc]; rfl
  | encBlock | decBlock | keyExpand | primS | primL | primLp | primT | primTp => rfl
  | ecbDec =>
    have hunpad (r : Option ErrorCode) : (lenError s).or (r.or (errorIf (unpadFails .ecbDec s) .unpad))
        = (lenError s).or (r.or (errorIf (errorApplies .ecbDec s .unpad) .unpad)) := by
      cases hl : lenError s with
      | none => rw [unpadFails_of_lenError hl]
      | some c => rfl
    simp only [reportedError, earlyError, Option.or_assoc, hunpad]
    simp only [regionError, Option.or_assoc]; rfl

/-- The errors before `c` in the priority have smaller codes. -/
theorem errorOrder_split {c : ErrorCode} (hc : c ≠ .opcode) :
    ∃ before after, errorOrder = before ++ c :: after ∧ ∀ c' ∈ before, c'.code.toNat < c.code.toNat := by
  refine ⟨errorOrder.takeWhile (· != c), (errorOrder.dropWhile (· != c)).tail, ?_⟩
  cases c
  case opcode => exact absurd rfl hc
  all_goals decide

theorem reportedError_of_first {c : ErrorCode} (h : errorApplies i s c = true)
    (hfirst : ∀ c' : ErrorCode, c'.code.toNat < c.code.toNat → ¬errorApplies i s c' = true) :
    reportedError i s = some c := by
  obtain ⟨before, after, hsplit, hbefore⟩ := errorOrder_split (c := c) (by rintro rfl; cases h)
  rw [reportedError_eq_find?, List.find?_eq_some_iff_append]
  exact ⟨h, before, after, hsplit, fun c' hc' => by simpa using hfirst c' (hbefore c' hc')⟩

theorem reportedError_of_none_applies (h : ∀ c, ¬errorApplies i s c = true) : reportedError i s = none := by
  rw [reportedError_eq_find?]
  exact List.find?_eq_none.2 fun c _ => h c

theorem errorApplies_of_reported {c : ErrorCode} (h : reportedError i s = some c) : errorApplies i s c = true :=
  List.find?_some (reportedError_eq_find? i s ▸ h)

/-! ## The causes in the words of R342 -/

theorem needsSubkeys_iff : needsSubkeys i = true ↔ isBuffer i = true ∨ i = .encBlock ∨ i = .decBlock := by
  cases i <;> decide

theorem errorApplies_nokey : errorApplies i s .nokey = true
    ↔ (i ∈ [Instr.ecbEnc, .ecbDec, .ctrXform] ∨ i = .encBlock ∨ i = .decBlock) ∧ s.rkValid = false := by
  rw [← isBuffer_iff, ← needsSubkeys_iff]
  simp [errorApplies, mayRaise, hasCause]

theorem errorApplies_len :
    errorApplies i s .len = true ↔ i = .ecbDec ∧ (s.len.toNat = 0 ∨ s.len.toNat % 16 ≠ 0) := by
  simp [errorApplies, mayRaise, hasCause]

theorem errorApplies_range {m : Nat} (hm : isBuffer i = true → outMax i s = m) :
    errorApplies i s .range = true ↔ i ∈ [Instr.ecbEnc, .ecbDec, .ctrXform]
      ∧ (s.cfg.memBytes < s.src.toNat + s.len.toNat ∨ s.cfg.memBytes < s.dst.toNat + m) := by
  rw [← isBuffer_iff, errorApplies, mayRaise, hasCause, Bool.and_eq_true, outOfRange_iff]
  exact and_congr_right fun hi => by rw [RegionOutside, hm hi]

theorem errorApplies_overlap {m : Nat} (hm : isBuffer i = true → outMax i s = m) :
    errorApplies i s .overlap = true ↔ i ∈ [Instr.ecbEnc, .ecbDec, .ctrXform]
      ∧ 0 < s.len.toNat ∧ 0 < m ∧ s.src.toNat ≠ s.dst.toNat
      ∧ s.src.toNat < s.dst.toNat + m ∧ s.dst.toNat < s.src.toNat + s.len.toNat := by
  rw [← isBuffer_iff, errorApplies, mayRaise, hasCause, Bool.and_eq_true, overlap_iff]
  exact and_congr_right fun hi => by rw [RegionsOverlap, hm hi]

theorem errorApplies_ctrOvf : errorApplies i s .ctrOvf = true ↔ i = .ctrXform ∧ 0 < s.len.toNat
    ∧ s.cfg.ctrOvfPolicy = .fault ∧ 2 ^ 128 - 1 < (counter0 s).toNat + blocksOf s.len.toNat - 1 := by
  have hlast (x : Nat) : 2 ^ 128 ≤ x ↔ 2 ^ 128 - 1 < x := by omega
  simp only [errorApplies, mayRaise, hasCause, Bool.and_eq_true, beq_iff_eq, decide_eq_true_eq, blocksOf_pos_iff,
    hlast]
  tauto

theorem errorApplies_unpad : errorApplies i s .unpad = true ↔ i = .ecbDec ∧ s.len.toNat < lastByte s := by
  simp [errorApplies, mayRaise, hasCause]

end

/-- Settles O33: the obligation's condition for a code is that the error with this code applies. -/
theorem firstErrorInPriorityOrderIsReported : Obligations.FirstErrorInPriorityOrderIsReported := by
  refine ⟨?_, fun w s hb ⟨e, hd⟩ => by rw [cmdWrite_of_illegal hb hd]; exact ⟨hb, rfl⟩⟩
  intro i s t he hc hx buffer n m lastBlock applies
  have hm (hi : isBuffer i = true) : outMax i s = m := outMax_of_isBuffer hi
  have happ (c : ErrorCode) : errorApplies i s c = true ↔ applies c.code.toNat := by
    cases c with
    | opcode => exact ⟨nofun, False.elim⟩
    | nokey => exact errorApplies_nokey
    | len => exact errorApplies_len
    | range => exact errorApplies_range hm
    | overlap => exact errorApplies_overlap hm
    | ctrOvf => exact errorApplies_ctrOvf
    | unpad => exact errorApplies_unpad
  have hcodes : ∀ code, applies code → ∃ c : ErrorCode, c.code.toNat = code
    | 2, _ => ⟨.nokey, rfl⟩
    | 3, _ => ⟨.len, rfl⟩
    | 4, _ => ⟨.range, rfl⟩
    | 5, _ => ⟨.overlap, rfl⟩
    | 6, _ => ⟨.ctrOvf, rfl⟩
    | 7, _ => ⟨.unpad, rfl⟩
  obtain ⟨herr, hcode⟩ := exec_record hx
  refine ⟨fun code h hfirst => ?_, fun hnone => ?_⟩
  · obtain ⟨c, rfl⟩ := hcodes code h
    have hr : reportedError i s = some c :=
      reportedError_of_first ((happ c).2 h) fun c' hlt => mt (happ c').1 (hfirst _ hlt)
    rw [herr, hcode, hr, he]; exact ⟨rfl, rfl⟩
  · have hr : reportedError i s = none := reportedError_of_none_applies fun c => mt (happ c).1 (hnone _)
    rw [herr, hcode, hr, he, hc]; exact ⟨rfl, rfl⟩

/-! ## The errors of each command (R341, R344) -/

section
variable {i : Instr} {s t : State}

/-- ERR rises only with an error that applies to the command. -/
theorem exec_error (he : s.err = false) (h : exec i s = .next t) (ht : t.err = true) :
    ∃ c, reportedError i s = some c ∧ t.errcode = c.code := by
  obtain ⟨herr, hcode⟩ := exec_record h
  cases hr : reportedError i s with
  | none => rw [herr, hr, he] at ht; cases ht
  | some c => exact ⟨c, rfl, by rw [hcode, hr]; rfl⟩

theorem eq_unpad_of_code {c : ErrorCode} (h : c.code = 7) : c = .unpad := by
  cases c
  case unpad => rfl
  all_goals cases h

theorem earlyError_ne_unpad (i : Instr) (s : State) : earlyError i s ≠ some .unpad := by
  cases i <;> simp [earlyError, keyError, lenError, regionError, ctrError, Option.or_eq_some_iff]

/-- The record of an early error, in one of the obligation's two forms (R343, R344). -/
theorem raiseError_eq (i : Instr) (c : ErrorCode) (s : State) : raiseError i c s
    = if i ∈ [Instr.ecbEnc, .ecbDec, .ctrXform] then failedBufferWith c.code s else failedWith c.code s := by
  cases i <;> rfl

/-- The end of ECB_DEC with ERR_UNPAD (R274). -/
theorem commandEnd_ecbDec_unpad_frame (hv : s.len.toNat < unpadValue s) :
    let t := commandEnd .ecbDec s
    t = { failedBufferWith 7 s with
      buf := t.buf, xw := t.xw, rnd := t.rnd, dir := t.dir, fsel := t.fsel, bi := t.bi } := by
  obtain ⟨ho, herr, hcode⟩ := commandEnd_ecbDec_unpad hv
  have hframe := commandEnd_ecb_frame (i := .ecbDec) (s := s) (.inr rfl)
  dsimp only at hframe ⊢
  rw [ho, herr, hcode] at hframe
  exact hframe

end

/-- Settles O34: an early error leaves all but the record, and a command without one fails by the unpadding alone. -/
theorem failedCommandsChangeOnlyTheRecord : Obligations.FailedCommandsChangeOnlyTheRecord := by
  intro i s t he hx ht
  cases hearly : earlyError i s with
  | some c =>
    rw [exec_of_earlyError hearly] at hx; cases hx
    exact ⟨fun _ => raiseError_eq i c s, fun h7 => absurd (eq_unpad_of_code h7 ▸ hearly) (earlyError_ne_unpad i s)⟩
  | none =>
    obtain ⟨c, hr, -⟩ := exec_error he hx ht
    obtain ⟨⟨rfl, hv⟩, -⟩ : (i = .ecbDec ∧ s.len.toNat < unpadValue s) ∧ ErrorCode.unpad = c := by
      simpa [reportedError, hearly, unpadFails] using hr
    rw [exec_of_no_earlyError hearly] at hx; cases hx
    obtain ⟨-, -, hcode⟩ := commandEnd_ecbDec_unpad hv
    refine ⟨fun h7 => absurd hcode h7, fun _ => ⟨rfl, commandEnd_ecbDec_unpad_frame hv, fun a ha => ?_⟩⟩
    exact bufByte_commandEnd_outside hearly (by simp only [outMax]; omega)

/-- Settles O35: the error a command reports is one it may raise, and `mayRaise` is R341's table. -/
theorem errorsOfEachCommand : Obligations.ErrorsOfEachCommand := by
  refine ⟨fun i s t he hx ht => ?_, fun w s hb ⟨e, hd⟩ => by rw [cmdWrite_of_illegal hb hd]; exact ⟨rfl, rfl⟩⟩
  obtain ⟨c, hr, hcode⟩ := exec_error he hx ht
  have hmay : mayRaise i c = true := (Bool.and_eq_true_iff.1 (errorApplies_of_reported hr)).1
  rw [hcode]
  cases i
  all_goals
    dsimp only
    revert hmay
    cases c <;> decide

/-! ## The idle engine (R358) -/

theorem engineStep_of_idle {s : State} (hb : s.busy = false) : engineStep s = s := if_neg (Bool.eq_false_iff.1 hb)

/-- Settles O49: the engine's own events do nothing while BUSY = 0. -/
theorem idleHoldsAllState : Obligations.IdleHoldsAllState := by
  refine fun s hb => ⟨step_of_idle hb, fun e rest he ha => ?_⟩
  rw [step_of_agenda ha]
  obtain rfl | rfl := he
  · exact congrArg Host.Outcome.next (engineStep_of_idle (s := { s with agenda := rest }) hb)
  · exact engineLast_of_idle (s := { s with agenda := rest }) hb

end Sys2Proof.Machine
end

section
/-! # The hardware reset input (O3)

Asserting the input puts the reset values in place; the host's operations are refused until the release, which changes
the input alone (R380, R382). A system reset leaves BUF as the abort of the running command does (R381). -/

namespace Sys2Proof.Machine

open Sys2Proof

section
variable {s : State}

@[simp] theorem hardwareReset_rstAsserted (powerOn : Bool) : (hardwareReset powerOn s).rstAsserted = true := by
  cases powerOn <;> rfl

@[simp] theorem hardwareReset_agenda (powerOn : Bool) : (hardwareReset powerOn s).agenda = s.agenda := by
  cases powerOn <;> exact abort_agenda s

theorem bufByte_hardwareReset_powerOn (a : Nat) :
    bufByte (hardwareReset true s) a = Config.powerOnByte (s.launch + 1) a := rfl

theorem bufByte_hardwareReset_system (a : Nat) : bufByte (hardwareReset false s) a = bufByte (abort s) a := rfl

theorem step_host_of_asserted {op : HostOp} {rest : List Event} (hr : s.rstAsserted = true)
    (ha : s.agenda = .host op :: rest) : step s = .refused .hostTransactionDuringReset := by
  rw [step_of_agenda ha]
  exact if_pos hr

theorem step_resetRelease {rest : List Event} (ha : s.agenda = .resetRelease :: rest) :
    step s = .next { s with rstAsserted := false, agenda := rest } := step_of_agenda ha

end

/-- Settles O3: the step is a hardware reset, which keeps BUF as the abort leaves it unless power was cycled. -/
theorem hardwareResetInput : Obligations.HardwareResetInput := by
  intro s powerOn rest ha
  let u : State := { s with agenda := rest }
  have hv := hasResetValues_hardwareReset powerOn u
  refine ⟨hardwareReset powerOn u, step_of_agenda ha, hv, hardwareReset_rstAsserted powerOn,
    hardwareReset_agenda powerOn, ?powerCycle, ?aborted, ?notAborted, ?held, ?released⟩
  case powerCycle => rintro rfl a; exact bufByte_hardwareReset_powerOn (s := u) a
  case aborted =>
    rintro rfl i hb hl hi a hlt
    obtain ⟨hin, hout⟩ := bufByte_abort (s := u) (runningBuffer_of hb hl hi) hlt
    rw [bufByte_hardwareReset_system]
    exact ⟨fun h => (hin h).1, hout⟩
  case notAborted =>
    rintro rfl hn a
    rw [bufByte_hardwareReset_system, abort_of_no_buffer (runningBuffer_of_no_region (s := u) hn)]
    rfl
  case held => exact fun op more => step_host_of_asserted (hardwareReset_rstAsserted powerOn) rfl
  case released => exact fun more => ⟨_, step_resetRelease rfl, { hv with }, rfl, rfl⟩

end Sys2Proof.Machine
end
